-- ==== Sys2Proof/Word.lean ====
section
/-! DEFINITION. The word types of the TSIP framer block: the byte of the wire and of the two buffers (R12), the
16-bit lengths and sums (R34, R47, D35) and the 64-bit data word of the host port (R90). -/

namespace Sys2Proof

/-- A byte: 8 bits, an unsigned value 0..255 (R12). -/
abbrev Byte := BitVec 8

/-- A 16-bit length, index, counter or running sum (R33, R34, R37, R46, R47). -/
abbrev Half := BitVec 16

/-- The 64-bit data word of the host port (`wdata`, `rdata`: R43, R90). -/
abbrev Quad := BitVec 64

end Sys2Proof
end

