-- ==== Sys2Proof/Config.lean ====
section
/-! DEFINITION. The build parameters of the block (R9). They are plain data and stand in State as the field `cfg`,
so a statement about every state is a statement about every value of them (log entry 1). There is no opaque free
value: no rule of the spec leaves the result of a step undefined. -/

namespace Sys2Proof

/-- The parameters of R9. -/
structure Config where
  /-- `RX_CAP`: capacity in bytes of the RX payload buffer. -/
  rxCap : Nat
  /-- `TX_CAP`: capacity in bytes of the TX frame buffer. -/
  txCap : Nat
  /-- `IDLE_LIMIT`: the idle timeout, in periods of the `tick` input. -/
  idleLimit : Nat
  /-- `TX_SUM_INCLUDES_ID`: whether TX_COMMAND's identifier bytes enter the TX running sum. -/
  txSumIncludesId : Bool
  /-- The reset set of `ext_mask`: bit p is set when primary byte p has a sub-identifier. -/
  extReset : BitVec 256
deriving DecidableEq, Repr

/-- The constraints R9 puts on the parameters. -/
abbrev Config.wf (c : Config) : Prop :=
  (1 ≤ c.rxCap ∧ c.rxCap ≤ 65535) ∧ (4 ≤ c.txCap ∧ c.txCap ≤ 65535) ∧ (1 ≤ c.idleLimit ∧ c.idleLimit ≤ 65535)

/-- The parameters `State.reset` is built with: the ones spec/95_test_vectors.md takes "unless a vector says
otherwise". DESIGN CHOICE for the three numbers (R9 gives them no value), log entry 1; unsafe for a claim about
`State.reset` alone. The Boolean and the set have these defaults in R9. -/
def Config.standard : Config :=
  { rxCap := 16, txCap := 32, idleLimit := 250, txSumIncludesId := true, extReset := 0 }

end Sys2Proof
end

