-- ==== Sys2Proof/Syntax.lean ====
section
/-! DEFINITION. The instructions of the block, one constructor per row of spec/opcode_table.json (26 host commands
and 8 stimuli: R93, R92), with their operands as R100 assembles them; and the raw words in which they arrive at the
ports of R53 (R90 to R92), which the decoder reads. -/

namespace Sys2Proof

/-- One step of the block (R15): a host command, or a stimulus of another port. -/
inductive Instr where
  -- control (45_control.md) and transport commands
  /-- NOP, op 0x00 (R260). -/
  | nop
  /-- RX_ARM, op 0x01 (R230). -/
  | rxArm
  /-- RD_STATUS, op 0x02 (R261). -/
  | rdStatus
  /-- RD_CURSOR, op 0x03 (R262). -/
  | rdCursor
  /-- SET_EXT p, m, op 0x04: p = imm8, m = wdata[0] (R221). -/
  | setExt (p : Byte) (m : Bool)
  -- cursor (42_cursor.md, 43_dispatch.md)
  /-- CUR_INIT, op 0x10 (R192). -/
  | curInit
  /-- GET_BYTES n, op 0x11: n = imm8, 1..8 (R193). -/
  | getBytes (n : Nat)
  /-- GET_I16, op 0x12 (R194). -/
  | getI16
  /-- GET_U16, op 0x13 (R195). -/
  | getU16
  /-- GET_I32, op 0x14 (R196). -/
  | getI32
  /-- GET_U32, op 0x15 (R197). -/
  | getU32
  /-- GET_I64, op 0x16 (R198). -/
  | getI64
  /-- GET_U64, op 0x17 (R199). -/
  | getU64
  /-- GET_F32, op 0x18 (R200). -/
  | getF32
  /-- GET_F64, op 0x19 (R201). -/
  | getF64
  /-- GET_ID, op 0x1A (R220). -/
  | getId
  -- TX framer (41_framebuilder.md) and send
  /-- TX_OPEN, op 0x20 (R162). -/
  | txOpen
  /-- TX_PUT8 b, op 0x21: b = imm8 (R163). -/
  | txPut8 (b : Byte)
  /-- TX_PUT16 v, op 0x22: v = wdata[15:0] (R164). -/
  | txPut16 (v : BitVec 16)
  /-- TX_PUT32 v, op 0x23: v = wdata[31:0] (R165). -/
  | txPut32 (v : BitVec 32)
  /-- TX_PUT64 v, op 0x24: v = wdata[63:0] (R166). -/
  | txPut64 (v : BitVec 64)
  /-- TX_PUTN n, v, op 0x25: n = imm8, 1..8, v = wdata[8n-1:0] (R167). -/
  | txPutN (n : Nat) (v : BitVec 64)
  /-- TX_CHECKSUM, op 0x26 (R168). -/
  | txChecksum
  /-- TX_CLOSE, op 0x27 (R169). -/
  | txClose
  /-- TX_COMMAND id, op 0x28: id = wdata[15:0] (R170). -/
  | txCommand (id : BitVec 16)
  /-- TX_SEND, op 0x29 (R240). -/
  | txSend
  -- stimuli
  /-- RX_BYTE(b): an RX9 token with rx_eos = 0 (R122). -/
  | rxByte (b : Byte)
  /-- RX_EOS: an RX9 token with rx_eos = 1 (R232). -/
  | rxEos
  /-- AUX_BYTE(a) (R233). -/
  | auxByte (a : Byte)
  /-- TICK (R236). -/
  | tick
  /-- TX_ACCEPT: `tx_ready` while `tx_valid` (R241). -/
  | txAccept
  /-- TX_FAIL: `tx_fail` while `tx_valid` (R242). -/
  | txFail
  /-- REPLAY, internal (R132). -/
  | replay
  /-- RESET: `rst` asserted (R300). -/
  | reset
deriving DecidableEq, Repr

/-- The one-bit strobes of format STROBE (R92). -/
inductive Strobe where
  /-- the `tick` input -/
  | tick
  /-- the TX sink's `tx_ready` -/
  | txReady
  /-- the TX sink's `tx_fail` -/
  | txFail
  /-- the block's own replay request -/
  | replay
  /-- the `rst` input -/
  | rst
deriving DecidableEq, Repr

/-- The lines on which a step can be asked for: the input side of the ports of R53, and the internal replay. -/
inductive Line where
  /-- the host command port -/
  | host
  /-- the RX token port -/
  | rx
  /-- the aux-in port -/
  | aux
  /-- a strobe -/
  | strobe (k : Strobe)
deriving DecidableEq, Repr

/-- A raw word as it stands on a line, before decoding (R90 to R92). -/
inductive Stim where
  /-- format CMD: the 16-bit command word and the 64-bit data word (R90) -/
  | cmd (cmd : BitVec 16) (wdata : Quad)
  /-- format RX9: `rx_eos` in bit 8, `rx_data` in bits 7:0 (R91) -/
  | rx (token : BitVec 9)
  /-- format AUX8 (R92) -/
  | aux (a : Byte)
  /-- format STROBE: a strobe and its one-bit level (R92) -/
  | strobe (k : Strobe) (level : BitVec 1)
deriving DecidableEq, Repr

/-- The line a raw word stands on. -/
def Stim.line : Stim → Line
  | .cmd _ _ => .host
  | .rx _ => .rx
  | .aux _ => .aux
  | .strobe k _ => .strobe k

end Sys2Proof
end

