-- ==== Sys2Proof/WellFormed.lean ====
section
/-! DEFINITION. Which terms of Instr are instructions of the block: the operand ranges of R94, R100 and R101. Every
other operand has its exact width in its type. -/

namespace Sys2Proof

/-- The legal counts of GET_BYTES and TX_PUTN: 1 ≤ n ≤ 8 (R94). -/
def legalCount (n : Nat) : Bool := decide (1 ≤ n) && decide (n ≤ 8)

/-- A term is well formed when its count is legal and, for TX_PUTN, its value is no wider than n bytes (R101: an
assembler rejects "n ∉ 1..8; v wider than the command"). -/
def wellFormed : Instr → Bool
  | .getBytes n => legalCount n
  | .txPutN n v => legalCount n && decide (v.toNat < 2 ^ (8 * n))
  | .nop | .rxArm | .rdStatus | .rdCursor | .setExt _ _ | .curInit => true
  | .getI16 | .getU16 | .getI32 | .getU32 | .getI64 | .getU64 | .getF32 | .getF64 | .getId => true
  | .txOpen | .txPut8 _ | .txPut16 _ | .txPut32 _ | .txPut64 _ => true
  | .txChecksum | .txClose | .txCommand _ | .txSend => true
  | .rxByte _ | .rxEos | .auxByte _ | .tick | .txAccept | .txFail | .replay | .reset => true

end Sys2Proof
end

