-- ==== Sys2Proof/Decode.lean ====
section
/-! DEFINITION. The decoder: total on every raw word, rejecting by name (R90 to R100); the encoder written from the
same tables; and `decodeTableWord`, the host's way to hand the decoder a word of spec/opcode_table.json. -/

namespace Sys2Proof

/-- Why a raw word is no instruction. The first three are the cases (a), (b), (c) of R97. -/
inductive DecodeError where
  /-- R97 (a): `op` is none of the 26 values of R93 -/
  | reservedOpcode
  /-- R97 (b): `imm8` must be zero and is not -/
  | immNotZero
  /-- R97 (c): a count outside 1..8 -/
  | countOutOfRange
  /-- a strobe whose level is 0: no event on that line (R92) -/
  | strobeLow
deriving DecidableEq, Repr

/-- `op`, bits 15:8 of the command word (R90). -/
def opField (cmd : BitVec 16) : Byte := cmd.extractLsb' 8 8

/-- `imm8`, bits 7:0 of the command word (R90). -/
def immField (cmd : BitVec 16) : Byte := cmd.extractLsb' 0 8

/-- wdata[8n-1:0], zero-extended (R95, R100). -/
def lowBytes (n : Nat) (d : Quad) : Quad := BitVec.ofNat 64 (d.toNat % 2 ^ (8 * n))

/-- An opcode whose `imm8` must be 0x00 (R94). -/
def zeroImm (imm : Byte) (i : Instr) : Except DecodeError Instr :=
  if imm = 0 then .ok i else .error .immNotZero

/-- An opcode whose `imm8` is a count 1..8 (R94). -/
def countImm (imm : Byte) (i : Instr) : Except DecodeError Instr :=
  if legalCount imm.toNat then .ok i else .error .countOutOfRange

/-- The opcode map (R93) with the operand assembly of R100. -/
def decodeCmd (cmd : BitVec 16) (wdata : Quad) : Except DecodeError Instr :=
  let imm := immField cmd
  match (opField cmd).toNat with
  | 0x00 => zeroImm imm .nop
  | 0x01 => zeroImm imm .rxArm
  | 0x02 => zeroImm imm .rdStatus
  | 0x03 => zeroImm imm .rdCursor
  | 0x04 => .ok (.setExt imm (wdata.getLsbD 0))
  | 0x10 => zeroImm imm .curInit
  | 0x11 => countImm imm (.getBytes imm.toNat)
  | 0x12 => zeroImm imm .getI16
  | 0x13 => zeroImm imm .getU16
  | 0x14 => zeroImm imm .getI32
  | 0x15 => zeroImm imm .getU32
  | 0x16 => zeroImm imm .getI64
  | 0x17 => zeroImm imm .getU64
  | 0x18 => zeroImm imm .getF32
  | 0x19 => zeroImm imm .getF64
  | 0x1A => zeroImm imm .getId
  | 0x20 => zeroImm imm .txOpen
  | 0x21 => .ok (.txPut8 imm)
  | 0x22 => zeroImm imm (.txPut16 (wdata.extractLsb' 0 16))
  | 0x23 => zeroImm imm (.txPut32 (wdata.extractLsb' 0 32))
  | 0x24 => zeroImm imm (.txPut64 wdata)
  | 0x25 => countImm imm (.txPutN imm.toNat (lowBytes imm.toNat wdata))
  | 0x26 => zeroImm imm .txChecksum
  | 0x27 => zeroImm imm .txClose
  | 0x28 => zeroImm imm (.txCommand (wdata.extractLsb' 0 16))
  | 0x29 => zeroImm imm .txSend
  | _ => .error .reservedOpcode

/-- The event of a strobe whose level is 1 (R92). -/
def strobeInstr : Strobe → Instr
  | .tick => .tick
  | .txReady => .txAccept
  | .txFail => .txFail
  | .replay => .replay
  | .rst => .reset

/-- The decoder. A word needs its line and nothing else to be decoded (R99). -/
def decode : Stim → Except DecodeError Instr
  | .cmd c d => decodeCmd c d
  | .rx t => if t.getLsbD 8 then .ok .rxEos else .ok (.rxByte (t.extractLsb' 0 8))
  | .aux a => .ok (.auxByte a)
  | .strobe k level => if level = 1 then .ok (strobeInstr k) else .error .strobeLow

/-- A command word from its two fields (R90). -/
def mkCmd (op imm : Byte) : BitVec 16 := op ++ imm

/-- A command with `imm8` zero and no data. -/
def plainCmd (op : Byte) : Stim := .cmd (mkCmd op 0) 0

/-- The encoder (R93 to R95, R91, R92; the unread bits are zero, as R101's assembler leaves them). -/
def encode : Instr → Stim
  | .nop => plainCmd 0x00
  | .rxArm => plainCmd 0x01
  | .rdStatus => plainCmd 0x02
  | .rdCursor => plainCmd 0x03
  | .setExt p m => .cmd (mkCmd 0x04 p) (if m then 1 else 0)
  | .curInit => plainCmd 0x10
  | .getBytes n => .cmd (mkCmd 0x11 (BitVec.ofNat 8 n)) 0
  | .getI16 => plainCmd 0x12
  | .getU16 => plainCmd 0x13
  | .getI32 => plainCmd 0x14
  | .getU32 => plainCmd 0x15
  | .getI64 => plainCmd 0x16
  | .getU64 => plainCmd 0x17
  | .getF32 => plainCmd 0x18
  | .getF64 => plainCmd 0x19
  | .getId => plainCmd 0x1A
  | .txOpen => plainCmd 0x20
  | .txPut8 b => .cmd (mkCmd 0x21 b) 0
  | .txPut16 v => .cmd (mkCmd 0x22 0) (v.setWidth 64)
  | .txPut32 v => .cmd (mkCmd 0x23 0) (v.setWidth 64)
  | .txPut64 v => .cmd (mkCmd 0x24 0) v
  | .txPutN n v => .cmd (mkCmd 0x25 (BitVec.ofNat 8 n)) v
  | .txChecksum => plainCmd 0x26
  | .txClose => plainCmd 0x27
  | .txCommand id => .cmd (mkCmd 0x28 0) (id.setWidth 64)
  | .txSend => plainCmd 0x29
  | .rxByte b => .rx (0#1 ++ b)
  | .rxEos => .rx (1#1 ++ 0#8)
  | .auxByte a => .aux a
  | .tick => .strobe .tick 1
  | .txAccept => .strobe .txReady 1
  | .txFail => .strobe .txFail 1
  | .replay => .strobe .replay 1
  | .reset => .strobe .rst 1

/-- Whether a command word is legal (R97), whatever its data word. -/
def cmdLegal (cmd : BitVec 16) : Bool :=
  match decodeCmd cmd 0 with
  | .ok _ => true
  | .error _ => false

/-- The raw word a table word stands for. The formats are told apart by their ports, which a table word does not
carry (log entry 11), so the reading is fixed here:
- 16 bits or more: a CMD, `cmd` in bits 15:0 and `wdata` in bits 79:16; a word that is no legal command but fits 9
  bits is an RX9 token;
- 9 to 15 bits: an RX9 token;
- up to 8 bits: the value 1 is a strobe, read as TICK, the first STROBE row; any other is an AUX8 byte. -/
def tableStim (nbits w : Nat) : Stim :=
  let v := w % 2 ^ nbits
  if 16 ≤ nbits then
    let c : BitVec 16 := BitVec.ofNat 16 v
    if cmdLegal c || decide (512 ≤ v) then .cmd c (BitVec.ofNat 64 (v / 2 ^ 16)) else .rx (BitVec.ofNat 9 v)
  else if 9 ≤ nbits then .rx (BitVec.ofNat 9 v)
  else if v = 1 then .strobe .tick 1
  else .aux (BitVec.ofNat 8 v)

/-- The instruction the decoder reads from a word of spec/opcode_table.json. -/
def decodeTableWord (nbits w : Nat) : Option Instr :=
  match decode (tableStim nbits w) with
  | .ok i => some i
  | .error _ => none

end Sys2Proof
end

