-- ==== Sys2Proof/Machine/State.lean ====
section
/-! DEFINITION. The state of the block as plain data: every element of R55, the build parameters of R9, and the two
sides of the ports of R53; the fault and refusal reasons; and the state after reset (R300). -/

namespace Sys2Proof.Machine

/-- `rx_state` (R31): the StreamState of the deframer. FrameComplete is a result, not a stored state (C6). -/
inductive RxState where
  /-- START = 0 -/
  | start
  /-- AWAIT_ID = 1 -/
  | awaitId
  /-- AWAIT_DATA = 2 -/
  | awaitData
  /-- AWAIT_ESC = 3 -/
  | awaitEsc
deriving DecidableEq, Repr

/-- `res_kind` (R38). -/
inductive ResKind where
  /-- NONE = 0 -/
  | none
  /-- FRAME = 1 -/
  | frame
  /-- TOO_LONG = 2 -/
  | tooLong
  /-- EOS = 3 -/
  | eos
deriving DecidableEq, Repr

/-- The response status (R96). Codes 5, 6 and 7 are never returned: the type has no such value. -/
inductive Status where
  /-- OK = 0 -/
  | ok
  /-- SHORT = 1 -/
  | short
  /-- BUSY = 2 -/
  | busy
  /-- OVERFLOW = 3 -/
  | overflow
  /-- ILLEGAL = 4 -/
  | illegal
deriving DecidableEq, Repr

/-- What the host reads back at the end of a command (R53): `rsp_status`, `rdata`, `rcount`. -/
structure Response where
  status : Status
  rdata : Quad
  rcount : BitVec 4
deriving DecidableEq, Repr

/-- A byte buffer: the (index, byte) pairs written so far, in strictly rising order of index. An index that is not
listed has never been written; it reads as nothing (log entry 6). -/
abbrev Memory := List Host.Cell

/-- The environment's side of the ports (R53, R54) and the output streams (R14, R313), as plain data (log entries 2
and 13). It is no state of the block. What a source presents is its list and then, for ever, its loop, where it has one:
so the runs without end of R312 are runs of this machine. -/
structure Ports where
  /-- the commands the host has still to present, first to come first: (`cmd`, `wdata`) -/
  hostQ : List (BitVec 16 × Quad)
  /-- the RX tokens the RX source holds, in arrival order (R82) -/
  rxQ : List (BitVec 9)
  /-- the bytes the aux source holds -/
  auxQ : List Byte
  /-- which line raises its handshake next (R83 leaves this order free) -/
  schedule : List Line
  /-- what the host goes on to present for ever, once `hostQ` is empty; nothing when empty -/
  hostLoop : List (BitVec 16 × Quad)
  /-- what the RX source goes on to present for ever -/
  rxLoop : List (BitVec 9)
  /-- what the aux source goes on to present for ever -/
  auxLoop : List Byte
  /-- the lines that go on to raise their handshakes for ever, once `schedule` is empty -/
  scheduleLoop : List Line
  /-- the responses given so far, oldest first -/
  responses : List Response
  /-- the TX output stream, oldest first -/
  txOut : List Byte
  /-- the aux output stream, oldest first -/
  auxOut : List Byte
deriving DecidableEq, Repr

/-- Ports on which nothing is presented and nothing has been sent. -/
def Ports.silent : Ports :=
  { hostQ := [], rxQ := [], auxQ := [], schedule := []
    hostLoop := [], rxLoop := [], auxLoop := [], scheduleLoop := []
    responses := [], txOut := [], auxOut := [] }

/-- The state of the block (R55), with its parameters (R9) and its ports (R53). -/
structure State where
  /-- the build parameters (R9); no step changes them -/
  cfg : Config
  /-- `rx_state` (R31) -/
  rxState : RxState
  /-- `rbuf`, the payload buffer (R32) -/
  rbuf : Memory
  /-- `rlen` (R33) -/
  rlen : Half
  /-- `s0`, the slot two bytes behind the running sum (R34) -/
  s0 : Half
  /-- `s1` (R34) -/
  s1 : Half
  /-- `s2`, the running sum (R34) -/
  s2 : Half
  /-- `unget_v` (R35) -/
  ungetV : Bool
  /-- `unget_b` (R35) -/
  ungetB : Byte
  /-- `armed` (R36) -/
  armed : Bool
  /-- `idle_cnt` (R37) -/
  idleCnt : Half
  /-- `res_pending` (R38) -/
  resPending : Bool
  /-- `res_kind` (R38) -/
  resKind : ResKind
  /-- `res_len` (R38) -/
  resLen : Half
  /-- `res_valid` (R38) -/
  resValid : Bool
  /-- `res_forced` (R38) -/
  resForced : Bool
  /-- `clen` (R39) -/
  clen : Half
  /-- `coff` (R40) -/
  coff : Half
  /-- `ext_mask` (R42): bit p is `ext_mask[p]` -/
  extMask : BitVec 256
  /-- `rdata` (R43) -/
  rdata : Quad
  /-- `rcount` (R44) -/
  rcount : BitVec 4
  /-- `tbuf`, the TX frame buffer (R45) -/
  tbuf : Memory
  /-- `tlen` (R46) -/
  tlen : Half
  /-- `tsum` (R47) -/
  tsum : Half
  /-- `tx_ovf` (R48) -/
  txOvf : Bool
  /-- `tx_busy` (R49) -/
  txBusy : Bool
  /-- `tx_ptr` (R49) -/
  txPtr : Half
  /-- `tx_err` (R50) -/
  txErr : Bool
  /-- the ports (R53) -/
  ports : Ports
deriving DecidableEq, Repr

/-- Why the model stops. Each reason is an access to a byte that is not there; no state that meets the invariant of
Safety.lean reaches one. All four are safe: the model stops where the hardware would read or write something. -/
inductive Fault where
  /-- An access to `rbuf` at an index ≥ RX_CAP, which R79 says does not exist. Raised by the append of a body byte,
  the completion check and the cursor. Safe (log entry 7). -/
  | rbufNoSuchIndex
  /-- A read of a byte of `rbuf` that nothing has written since reset (R32: unspecified). Raised by the completion
  check and the cursor. Safe (log entry 6). -/
  | rbufUnwritten
  /-- An access to `tbuf` at an index ≥ TX_CAP, which R79 says does not exist. Raised by TX_ACCEPT. Safe (log entry 7). -/
  | tbufNoSuchIndex
  /-- A read of a byte of `tbuf` that nothing has written since reset (R45: unspecified). Raised by TX_ACCEPT. Safe
  (log entry 6). -/
  | tbufUnwritten
deriving DecidableEq, Repr

/-- Why the model gives an instruction no meaning. -/
inductive Refusal where
  /-- Raised by an arm of exec whose instruction has no meaning yet; no arm of this model does. Safe. -/
  | notModelled (mnemonic : String)
deriving DecidableEq, Repr

/-- The state after reset, for given parameters and ports (R300): every element at its value of R55, the buffers
with nothing written. -/
def State.resetOf (c : Config) (p : Ports) : State :=
  { cfg := c
    rxState := .start, rbuf := [], rlen := 0, s0 := 0, s1 := 0, s2 := 0
    ungetV := false, ungetB := 0, armed := false, idleCnt := 0
    resPending := false, resKind := .none, resLen := 0, resValid := false, resForced := false
    clen := 0, coff := 0, extMask := c.extReset, rdata := 0, rcount := 0
    tbuf := [], tlen := 0, tsum := 0, txOvf := false, txBusy := false, txPtr := 0, txErr := false
    ports := p }

/-- The machine right after reset, with the standard parameters (log entry 1) and silent ports. -/
def State.reset : State := State.resetOf Config.standard Ports.silent

end Sys2Proof.Machine
end

