-- ==== Sys2Proof/Machine/Ops.lean ====
section
/-! DEFINITION. The named operations over the two buffers and the registers: reading and writing a buffer byte,
ending a command with a response (R96), the result registers (R133), the discard of a frame (R131), the output
streams (R14). The block has no exceptions (R270, R283, R284), so there is no exception entry or return here: the
operations that report an error are `respond` and `setResult`. -/

namespace Sys2Proof.Machine

/-! ### Buffers -/

/-- The canonical form of a buffer: indexes strictly rising. (No unlisted index reads as a byte, so no entry can
repeat what an unlisted one reads as.) -/
abbrev Memory.wf (m : Memory) : Prop := m.Pairwise (fun x y => x.1 < y.1)

/-- The byte at index `i`, if one was written. -/
def Memory.read : Memory → Nat → Option Byte
  | [], _ => none
  | (a, b) :: m, i => if a = i then some b else Memory.read m i

/-- Write byte `v` at index `i`, keeping the canonical form. -/
def Memory.write : Memory → Nat → Byte → Memory
  | [], i, v => [(i, v)]
  | (a, b) :: m, i, v =>
    if i < a then (i, v) :: (a, b) :: m
    else if i = a then (i, v) :: m
    else (a, b) :: Memory.write m i v

/-- Write bytes at rising indexes from `i`. -/
def Memory.writeList : Memory → Nat → List Byte → Memory
  | m, _, [] => m
  | m, i, b :: bs => Memory.writeList (Memory.write m i b) (i + 1) bs

/-- `rbuf[i]` (R14, R79). -/
def readRbuf (s : State) (i : Nat) : Except Fault Byte :=
  if i < s.cfg.rxCap then
    match s.rbuf.read i with
    | some b => .ok b
    | none => .error .rbufUnwritten
  else .error .rbufNoSuchIndex

/-- The n-byte list `rbuf[i .. i+n-1]`, MemRead of R14. -/
def readRbufBlock (s : State) (i : Nat) : Nat → Except Fault (List Byte)
  | 0 => .ok []
  | n + 1 =>
    match readRbuf s i with
    | .error f => .error f
    | .ok b =>
      match readRbufBlock s (i + 1) n with
      | .error f => .error f
      | .ok bs => .ok (b :: bs)

/-- `rbuf[i] <- b` (R14, R79). -/
def writeRbuf (i : Nat) (b : Byte) (s : State) : Except Fault State :=
  if i < s.cfg.rxCap then .ok { s with rbuf := s.rbuf.write i b } else .error .rbufNoSuchIndex

/-- `tbuf[i]` (R14, R79). -/
def readTbuf (s : State) (i : Nat) : Except Fault Byte :=
  if i < s.cfg.txCap then
    match s.tbuf.read i with
    | some b => .ok b
    | none => .error .tbufUnwritten
  else .error .tbufNoSuchIndex

/-! ### Ending a step -/

/-- The outcome of a step whose accesses may have met a missing byte. -/
def finish : Except Fault State → Host.Outcome State Fault Refusal
  | .ok s => .next s
  | .error f => .fault f

/-- The response of a command is put on the response stream, with `rdata` and `rcount` as they then stand (R53). -/
def State.answer (st : Status) (s : State) : State :=
  { s with ports := { s.ports with responses := s.ports.responses ++ [⟨st, s.rdata, s.rcount⟩] } }

/-- `respond(status)` ends a host command (R14). -/
def respond (st : Status) (s : State) : Host.Outcome State Fault Refusal := .next (s.answer st)

/-- `emit_tx(b)` (R14). -/
def State.emitTx (b : Byte) (s : State) : State :=
  { s with ports := { s.ports with txOut := s.ports.txOut ++ [b] } }

/-- `emit_aux(b)` (R14). -/
def State.emitAux (b : Byte) (s : State) : State :=
  { s with ports := { s.ports with auxOut := s.ports.auxOut ++ [b] } }

/-! ### Results of a get_frame -/

/-- `result(kind, len, valid, forced)` (R133): the get_frame has returned. -/
def State.setResult (kind : ResKind) (len : Half) (valid forced : Bool) (s : State) : State :=
  { s with
    resKind := kind, resLen := len, resValid := valid, resForced := forced
    resPending := true, armed := false, rxState := .start, idleCnt := 0 }

/-- `discard()` (R131): the frame in progress is dropped; `rbuf` and the delay line keep their contents. -/
def State.discard (s : State) : State := { s with rlen := 0, rxState := .start }

end Sys2Proof.Machine
end

