-- ==== Sys2Proof/Machine/Operands.lean ====
section
/-! DEFINITION. Byte order and wire bytes: the big-endian number of a byte list and the bytes of a value (R13, R70),
the two wire constants (R10), stuffing and the wire form of a frame (R105), the 16-bit sums (D7), the widths of the
cursor's results (D21), and one bit of `ext_mask` (R42). -/

namespace Sys2Proof.Machine

/-- START = 0x10 (R10). -/
def startMarker : Byte := 0x10

/-- TERMINATOR = 0x03 (R10). -/
def terminator : Byte := 0x03

/-- `be(b0, b1, …)`: the big-endian number of a byte list, first byte most significant (R13). -/
def be : List Byte → Nat
  | [] => 0
  | b :: bs => b.toNat * 2 ^ (8 * bs.length) + be bs

/-- `bytes_be(v, n)`: the n bytes of v[8n-1:0], most significant first (R13). -/
def bytesBe {w : Nat} (v : BitVec w) : Nat → List Byte
  | 0 => []
  | n + 1 => v.extractLsb' (8 * n) 8 :: bytesBe v n

/-- `zext_64` of a number read from the buffer (R195). -/
def zext64 (v : Nat) : Quad := BitVec.ofNat 64 v

/-- `sext_64` of a w-bit number read from the buffer (R194, R196). -/
def sext64 (w v : Nat) : Quad := (BitVec.ofNat w v).signExtend 64

/-- `zext_16` of a byte: bytes are added as unsigned numbers (R129, D7). -/
def zext16 (b : Byte) : Half := b.setWidth 16

/-- The sum of a byte list modulo 2^16, each byte once as an unsigned value (R134, D7). -/
def byteSum : List Byte → Half
  | [] => 0
  | b :: bs => zext16 b + byteSum bs

/-- st(b): 0x10 is doubled, any other byte is written once (R105). -/
def stuffByte (b : Byte) : List Byte := if b = startMarker then [startMarker, startMarker] else [b]

/-- stuffed(b0 b1 …) (R105). -/
def stuff : List Byte → List Byte
  | [] => []
  | b :: bs => stuffByte b ++ stuff bs

/-- The wire form of a frame with payload `p` (R105). -/
def wireFrame (p : List Byte) : List Byte := startMarker :: (stuff p ++ [startMarker, terminator])

/-- The identifier bytes TX_COMMAND writes: one byte if it fits, else high byte then low byte (R170). -/
def idBytes (id : BitVec 16) : List Byte :=
  if id.extractLsb' 8 8 = 0 then [id.extractLsb' 0 8] else [id.extractLsb' 8 8, id.extractLsb' 0 8]

/-- `ext_mask[p]` (R42). -/
def extBit (mask : BitVec 256) (p : Byte) : Bool := mask.getLsbD p.toNat

/-- `ext_mask[p] <- m` (R221). -/
def setExtBit (mask : BitVec 256) (p : Byte) (m : Bool) : BitVec 256 :=
  if m then mask ||| (1#256 <<< p.toNat) else mask &&& ~~~(1#256 <<< p.toNat)

end Sys2Proof.Machine
end

