-- ==== Sys2Proof/Machine/Flags.lean ====
section
/-! DEFINITION. The codes of the enumerated elements (R31, R38, R96), the status word (R261), the cursor word (R262)
and the ready and valid outputs of the ports (R53). -/

namespace Sys2Proof.Machine

/-- The 2-bit code of `rx_state` (R31). -/
def rxStateCode : RxState → BitVec 2
  | .start => 0
  | .awaitId => 1
  | .awaitData => 2
  | .awaitEsc => 3

/-- The 2-bit code of `res_kind` (R38). -/
def resKindCode : ResKind → BitVec 2
  | .none => 0
  | .frame => 1
  | .tooLong => 2
  | .eos => 3

/-- The 3-bit response code, `rsp_status[2:0]` (R96). -/
def statusCode : Status → BitVec 3
  | .ok => 0
  | .short => 1
  | .busy => 2
  | .overflow => 3
  | .illegal => 4

/-- `status_word()` (R261), most significant field first. It is also the value of the status pins (R53). -/
def statusWord (s : State) : Quad :=
  s.tsum ++ s.tlen ++ s.resLen ++ 0#4 ++
  BitVec.ofBool s.txErr ++ BitVec.ofBool s.txOvf ++ BitVec.ofBool s.txBusy ++
  BitVec.ofBool s.resForced ++ BitVec.ofBool s.resValid ++ resKindCode s.resKind ++ BitVec.ofBool s.resPending ++
  BitVec.ofBool s.ungetV ++ BitVec.ofBool s.armed ++ rxStateCode s.rxState

/-- The cursor word (R262): tx_ptr, rlen, clen, coff. It is also the value of the cursor pins (R53). -/
def cursorWord (s : State) : Quad := s.txPtr ++ s.rlen ++ s.clen ++ s.coff

/-- `rx_ready = armed ∧ ¬unget_v` (R53). -/
def rxReady (s : State) : Bool := s.armed && !s.ungetV

/-- `aux_ready = armed` (R53). -/
def auxReady (s : State) : Bool := s.armed

/-- `tx_valid = tx_busy` (R53). -/
def txValid (s : State) : Bool := s.txBusy

/-- `tx_data = tbuf[tx_ptr]` (R53). -/
def txData (s : State) : Except Fault Byte := readTbuf s s.txPtr.toNat

end Sys2Proof.Machine
end

