-- ==== Sys2Proof/Machine/FrameCodec.lean ====
section
/-! DEFINITION. The RX deframer and its checksum delay line (spec/40_framecodec.md): the steps RX_BYTE and REPLAY and
the procedures they share with the idle timeout and the end of stream. -/

namespace Sys2Proof.Machine

/-- `too_long()` (R130): the frame is discarded and the get_frame ends with TOO_LONG. -/
def tooLong (s : State) : State := s.discard.setResult .tooLong 0 false false

/-- `body_append(b)` (R129): the capacity-checked append with the shift of the delay line. The Boolean says whether
the byte was accepted. -/
def bodyAppend (b : Byte) (s : State) : Except Fault (Bool × State) :=
  if s.rlen.toNat = s.cfg.rxCap then .ok (false, tooLong s)
  else
    match writeRbuf s.rlen.toNat b s with
    | .error f => .error f
    | .ok t => .ok (true, { t with rlen := t.rlen + 1, s0 := t.s1, s1 := t.s2, s2 := t.s2 + zext16 b })

/-- `complete(forced)` (R133): the frame is delivered with its validity flag; a payload of 2 bytes or fewer makes no
checksum claim. -/
def complete (forced : Bool) (s : State) : Except Fault State :=
  if 2 < s.rlen.toNat then
    match readRbuf s (s.rlen.toNat - 1) with
    | .error f => .error f
    | .ok lo =>
      match readRbuf s (s.rlen.toNat - 2) with
      | .error f => .error f
      | .ok hi =>
        .ok (s.setResult .frame s.rlen
          (decide (s.s0.extractLsb' 0 8 = lo) && decide (s.s0.extractLsb' 8 8 = hi)) forced)
  else .ok (s.setResult .frame s.rlen false forced)

/-- `violation(b)` (R128): the frame is discarded silently and the byte goes to the unget slot. -/
def violation (b : Byte) (s : State) : State := { s.discard with ungetB := b, ungetV := true }

/-- deframe(b) in AWAIT_ID for an identifier byte (R126): the delay line is seeded without a shift; s0 and s1 keep
their values (D8). -/
def beginFrame (b : Byte) (s : State) : Except Fault State :=
  match writeRbuf 0 b s with
  | .error f => .error f
  | .ok t => .ok { t with rlen := 1, s2 := zext16 b, resValid := false, rxState := .awaitData }

/-- `deframe(b)` (R122 to R127): one byte through the state machine. -/
def deframe (b : Byte) (s : State) : Except Fault State :=
  match s.rxState with
  | .start => if b = startMarker then .ok { s with rxState := .awaitId } else .ok s
  | .awaitId =>
    if b = startMarker then .ok s
    else if b = terminator then .ok { s with rxState := .start }
    else beginFrame b s
  | .awaitData =>
    if b = startMarker then .ok { s with rxState := .awaitEsc }
    else
      match bodyAppend b s with
      | .error f => .error f
      | .ok (_, t) => .ok t
  | .awaitEsc =>
    if b = startMarker then
      match bodyAppend startMarker s with
      | .error f => .error f
      | .ok (true, t) => .ok { t with rxState := .awaitData }
      | .ok (false, t) => .ok t
    else if b = terminator then complete false s
    else .ok (violation b s)

/-- RX_BYTE(b) (R122), enabled when `rx_ready`. While the port is not ready there is no transfer: the source keeps
the token and nothing changes (R53, R54; log entry 5). -/
def execRxByte (b : Byte) (s : State) : Host.Outcome State Fault Refusal :=
  if rxReady s then finish (deframe b { s with idleCnt := 0 }) else .next s

/-- REPLAY (R132), enabled when `unget_v`: the byte in the unget slot is delivered again; `idle_cnt` is not cleared. -/
def execReplay (s : State) : Host.Outcome State Fault Refusal :=
  if s.ungetV then finish (deframe s.ungetB { s with ungetV := false }) else .next s

end Sys2Proof.Machine
end

