-- ==== Sys2Proof/Machine/FrameBuilder.lean ====
section
/-! DEFINITION. The TX framer (spec/41_framebuilder.md): the commands that build an outgoing frame in `tbuf`. -/

namespace Sys2Proof.Machine

/-- The wire bytes of one TX command (R161): V verbatim, P stuffed, S verbatim. -/
def txWire (v p w : List Byte) : List Byte := v ++ stuff p ++ w

/-- `tx_write(V, P, acc, S)` (R161): busy, then the sticky overflow, then one capacity check for the whole command;
all or nothing. The bytes of P enter `tsum` once each when `acc`. The comparison is exact, not modulo 2^16 (R278:
"does not fit in TX_CAP − tlen"; log entry 8). -/
def txWrite (v p : List Byte) (acc : Bool) (w : List Byte) (s : State) : Status × State :=
  if s.txBusy then (.busy, s)
  else if s.txOvf then (.overflow, s)
  else if s.cfg.txCap < s.tlen.toNat + (txWire v p w).length then (.overflow, { s with txOvf := true })
  else
    (.ok,
      { s with
        tbuf := s.tbuf.writeList s.tlen.toNat (txWire v p w)
        tlen := s.tlen + BitVec.ofNat 16 (txWire v p w).length
        tsum := if acc then s.tsum + byteSum p else s.tsum })

/-- A TX command that is one tx_write: `respond(tx_write(…))`. -/
def txCmd (v p : List Byte) (acc : Bool) (w : List Byte) (s : State) : Host.Outcome State Fault Refusal :=
  respond (txWrite v p acc w s).1 (txWrite v p acc w s).2

/-- TX_OPEN (R162). The contents of `tbuf` are not touched, nor is `tx_ptr`, whose writers are those of R49 (R51
claims a consequence that does not follow from these: log entry 10). -/
def execTxOpen (s : State) : Host.Outcome State Fault Refusal :=
  if s.txBusy then respond .busy s
  else respond .ok { s with tlen := 0, tsum := 0, txOvf := false, txErr := false }

/-- TX_PUT8 b (R163). -/
def execTxPut8 (b : Byte) (s : State) : Host.Outcome State Fault Refusal := txCmd [] [b] true [] s

/-- TX_PUT16 v (R164). -/
def execTxPut16 (v : BitVec 16) (s : State) : Host.Outcome State Fault Refusal := txCmd [] (bytesBe v 2) true [] s

/-- TX_PUT32 v (R165). -/
def execTxPut32 (v : BitVec 32) (s : State) : Host.Outcome State Fault Refusal := txCmd [] (bytesBe v 4) true [] s

/-- TX_PUT64 v (R166). -/
def execTxPut64 (v : BitVec 64) (s : State) : Host.Outcome State Fault Refusal := txCmd [] (bytesBe v 8) true [] s

/-- TX_PUTN n, v (R167); a count outside 1..8 is ILLEGAL, before any other check (R97, R276). -/
def execTxPutN (n : Nat) (v : BitVec 64) (s : State) : Host.Outcome State Fault Refusal :=
  if legalCount n then txCmd [] (bytesBe v n) true [] s else respond .illegal s

/-- TX_CHECKSUM (R168): the running sum as it stood before, through put. -/
def execTxChecksum (s : State) : Host.Outcome State Fault Refusal :=
  txCmd [] [s.tsum.extractLsb' 8 8, s.tsum.extractLsb' 0 8] true [] s

/-- TX_CLOSE (R169): the terminator sequence, verbatim. -/
def execTxClose (s : State) : Host.Outcome State Fault Refusal := txCmd [startMarker, terminator] [] false [] s

/-- TX_COMMAND id (R170): a start marker verbatim, then the identifier through put; whether the identifier enters the
running sum is the parameter TX_SUM_INCLUDES_ID (C1). -/
def execTxCommand (id : BitVec 16) (s : State) : Host.Outcome State Fault Refusal :=
  txCmd [startMarker] (idBytes id) s.cfg.txSumIncludesId [] s

end Sys2Proof.Machine
end

