-- ==== Sys2Proof/Machine/Cursor.lean ====
section
/-! DEFINITION. The cursor (spec/42_cursor.md): the bounds-checked big-endian field reader over the payload. -/

namespace Sys2Proof.Machine

/-- `get_raw(n)` (R191): the bytes that are there, at most n, and the state with `coff` and `rcount` moved. The
offset never passes `clen`; the subtraction is exact, and 0 where `coff > clen`, which no run reaches (log entry 9). -/
def getRaw (n : Nat) (s : State) : Except Fault (List Byte × State) :=
  let k := min n (s.clen.toNat - s.coff.toNat)
  match readRbufBlock s s.coff.toNat k with
  | .error f => .error f
  | .ok bs => .ok (bs, { s with coff := s.coff + BitVec.ofNat 16 k, rcount := BitVec.ofNat 4 k })

/-- A scalar get of n bytes (R194 to R201, R202): BUSY while armed (R190); on a short read `rdata` is unchanged and the
answer is SHORT; else `rdata` takes the value `f` gives the bytes. -/
def getScalar (n : Nat) (f : List Byte → Quad) (s : State) : Host.Outcome State Fault Refusal :=
  if s.armed then respond .busy s
  else
    match getRaw n s with
    | .error e => .fault e
    | .ok (bs, t) => if bs.length < n then respond .short t else respond .ok { t with rdata := f bs }

/-- CUR_INIT (R192). -/
def execCurInit (s : State) : Host.Outcome State Fault Refusal :=
  if s.armed then respond .busy s else respond .ok { s with clen := s.rlen, coff := 0 }

/-- GET_BYTES n (R193): byte i of the block at bits 8(n-1-i)+7 .. 8(n-1-i), the unread tail zero; `rdata` is written
also on a short read (R202). A count outside 1..8 is ILLEGAL, before any other check (R97, R276). -/
def execGetBytes (n : Nat) (s : State) : Host.Outcome State Fault Refusal :=
  if legalCount n then
    if s.armed then respond .busy s
    else
      match getRaw n s with
      | .error e => .fault e
      | .ok (bs, t) =>
        respond (if bs.length = n then .ok else .short)
          { t with rdata := zext64 (be bs * 2 ^ (8 * (n - bs.length))) }
  else respond .illegal s

/-- GET_I16 (R194). -/
def execGetI16 (s : State) : Host.Outcome State Fault Refusal := getScalar 2 (fun bs => sext64 16 (be bs)) s

/-- GET_U16 (R195). -/
def execGetU16 (s : State) : Host.Outcome State Fault Refusal := getScalar 2 (fun bs => zext64 (be bs)) s

/-- GET_I32 (R196). -/
def execGetI32 (s : State) : Host.Outcome State Fault Refusal := getScalar 4 (fun bs => sext64 32 (be bs)) s

/-- GET_U32 (R197). -/
def execGetU32 (s : State) : Host.Outcome State Fault Refusal := getScalar 4 (fun bs => zext64 (be bs)) s

/-- GET_I64 (R198). -/
def execGetI64 (s : State) : Host.Outcome State Fault Refusal := getScalar 8 (fun bs => zext64 (be bs)) s

/-- GET_U64 (R199). -/
def execGetU64 (s : State) : Host.Outcome State Fault Refusal := getScalar 8 (fun bs => zext64 (be bs)) s

/-- GET_F32 (R200): the bits of a binary32, no conversion. -/
def execGetF32 (s : State) : Host.Outcome State Fault Refusal := getScalar 4 (fun bs => zext64 (be bs)) s

/-- GET_F64 (R201): the bits of a binary64, no conversion. -/
def execGetF64 (s : State) : Host.Outcome State Fault Refusal := getScalar 8 (fun bs => zext64 (be bs)) s

end Sys2Proof.Machine
end

