-- ==== Sys2Proof/Machine/Identifier.lean ====
section
/-! DEFINITION. Identifier resolution (spec/43_dispatch.md): the two-tier identifier read and the set of extended
family bytes. -/

namespace Sys2Proof.Machine

/-- GET_ID (R220): one identifier byte, and a second one when `ext_mask` marks the first. A missing byte answers SHORT
with `rdata` unchanged; the primary byte then stays consumed. -/
def execGetId (s : State) : Host.Outcome State Fault Refusal :=
  if s.armed then respond .busy s
  else if s.coff = s.clen then respond .short { s with rcount := 0 }
  else
    match readRbuf s s.coff.toNat with
    | .error e => .fault e
    | .ok p =>
      let t := { s with coff := s.coff + 1 }
      if extBit s.extMask p then
        if t.coff = t.clen then respond .short { t with rcount := 1 }
        else
          match readRbuf t t.coff.toNat with
          | .error e => .fault e
          | .ok q => respond .ok { t with coff := t.coff + 1, rdata := zext64 (be [p, q]), rcount := 2 }
      else respond .ok { t with rdata := zext64 (be [p]), rcount := 1 }

/-- SET_EXT p, m (R221): allowed in every state. -/
def execSetExt (p : Byte) (m : Bool) (s : State) : Host.Outcome State Fault Refusal :=
  respond .ok { s with extMask := setExtBit s.extMask p m }

end Sys2Proof.Machine
end

