-- ==== Sys2Proof/Machine/Transport.lean ====
section
/-! DEFINITION. The transport (spec/44_transport.md): the get-frame handshake, the end of stream, the side channel,
the idle timeout, and the write path. -/

namespace Sys2Proof.Machine

/-- RX_ARM (R230): BUSY while armed; else the result registers and the cursor are cleared and the get_frame starts. -/
def execRxArm (s : State) : Host.Outcome State Fault Refusal :=
  if s.armed then respond .busy s
  else
    respond .ok
      { s with
        armed := true
        resPending := false, resKind := .none, resLen := 0, resValid := false, resForced := false
        clen := 0, coff := 0, idleCnt := 0 }

/-- RX_EOS (R232), enabled when `rx_ready`: the frame in progress is discarded and the get_frame ends with EOS. -/
def execRxEos (s : State) : Host.Outcome State Fault Refusal :=
  if rxReady s then .next (s.discard.setResult .eos 0 false false) else .next s

/-- AUX_BYTE(a) (R233), enabled when `aux_ready`: the byte is forwarded unchanged and counts as activity. -/
def execAuxByte (a : Byte) (s : State) : Host.Outcome State Fault Refusal :=
  if auxReady s then .next { s.emitAux a with idleCnt := 0 } else .next s

/-- TICK (R236): never held off. The IDLE_LIMIT-th tick without activity completes a frame in progress; elsewhere the
count only starts again. The count is compared exactly (log entry 8). -/
def execTick (s : State) : Host.Outcome State Fault Refusal :=
  if s.armed then
    if s.idleCnt.toNat + 1 < s.cfg.idleLimit then .next { s with idleCnt := s.idleCnt + 1 }
    else
      match s.rxState with
      | .awaitData | .awaitEsc => finish (complete true { s with idleCnt := 0 })
      | .start | .awaitId => .next { s with idleCnt := 0 }
  else .next s

/-- TX_SEND (R240): an empty buffer is OK and sends nothing. -/
def execTxSend (s : State) : Host.Outcome State Fault Refusal :=
  if s.txBusy then respond .busy s
  else if s.txOvf then respond .overflow s
  else respond .ok { s with txErr := false, txPtr := 0, txBusy := decide (0 < s.tlen.toNat) }

/-- TX_ACCEPT (R241), enabled when `tx_busy`: the sink takes the byte at `tx_ptr`. -/
def execTxAccept (s : State) : Host.Outcome State Fault Refusal :=
  if txValid s then
    match txData s with
    | .error e => .fault e
    | .ok b =>
      .next { s.emitTx b with txPtr := s.txPtr + 1, txBusy := decide (s.txPtr + 1 ≠ s.tlen) }
  else .next s

/-- TX_FAIL (R242), enabled when `tx_busy`: the send is abandoned and the failure is kept in `tx_err`. -/
def execTxFail (s : State) : Host.Outcome State Fault Refusal :=
  if txValid s then .next { s with txBusy := false, txErr := true } else .next s

end Sys2Proof.Machine
end

