-- ==== Sys2Proof/Machine/Control.lean ====
section
/-! DEFINITION. Control and status commands (spec/45_control.md) and the reset step (spec/70_reset_and_hazards.md). -/

namespace Sys2Proof.Machine

/-- NOP (R260). -/
def execNop (s : State) : Host.Outcome State Fault Refusal := respond .ok s

/-- RD_STATUS (R261): no side effect but `rdata`. -/
def execRdStatus (s : State) : Host.Outcome State Fault Refusal := respond .ok { s with rdata := statusWord s }

/-- RD_CURSOR (R262): no side effect but `rdata`. -/
def execRdCursor (s : State) : Host.Outcome State Fault Refusal := respond .ok { s with rdata := cursorWord s }

/-- RESET (R300, R301): every element takes its reset value; what the sources hold stays with them, what was sent
stays sent, and no response is given. -/
def execReset (s : State) : Host.Outcome State Fault Refusal := .next (State.resetOf s.cfg s.ports)

end Sys2Proof.Machine
end

