-- ==== Sys2Proof/Machine/PortLines.lean ====
section
/-! DEFINITION. How the next stimulus reaches the block: the lines of R53, their handshakes, and which transfer comes
next. The block has no program counter and fetches nothing from memory (R30, R74); `ports.schedule` says which line
raises its handshake next (R83; log entry 2). -/

namespace Sys2Proof.Machine

/-- What is still to come of a list that goes on as `loop` for ever once it is empty. -/
def upcoming {α : Type} (q loop : List α) : List α :=
  match q with
  | [] => loop
  | _ :: _ => q

/-- What a line presents: the first word its source holds, or its strobe. -/
def presented (p : Ports) : Line → Option Stim
  | .host => (upcoming p.hostQ p.hostLoop).head?.map (fun c => .cmd c.1 c.2)
  | .rx => (upcoming p.rxQ p.rxLoop).head?.map .rx
  | .aux => (upcoming p.auxQ p.auxLoop).head?.map .aux
  | .strobe k => some (.strobe k 1)

/-- Whether the block takes what a line presents (R53). Host commands and strobes are always taken; a strobe that has
nothing to act on changes nothing (its meaning says so). -/
def lineReady (s : State) : Line → Bool
  | .rx => rxReady s
  | .aux => auxReady s
  | .host | .strobe _ => true

/-- The source's side of a transfer: the word it presented is gone. -/
def taken (p : Ports) : Line → Ports
  | .host => { p with hostQ := (upcoming p.hostQ p.hostLoop).tail }
  | .rx => { p with rxQ := (upcoming p.rxQ p.rxLoop).tail }
  | .aux => { p with auxQ := (upcoming p.auxQ p.auxLoop).tail }
  | .strobe _ => p

/-- The next transfer, if there is one, and the state with that handshake over.
At the end of the schedule a pending REPLAY, the block's own step (R132), runs before the schedule's loop goes on; with
no loop either, the block waits for ever (R312; log entry 3). A word presented while the line is not ready is no
transfer: its source keeps it (R54; log entry 4). -/
def fetch (s : State) : Option Stim × State :=
  if s.ports.schedule.isEmpty && s.ungetV then (some (.strobe .replay 1), s)
  else
    match upcoming s.ports.schedule s.ports.scheduleLoop with
    | [] => (none, s)
    | l :: ls =>
      let p : Ports := { s.ports with schedule := ls }
      match presented s.ports l with
      | none => (none, { s with ports := p })
      | some w =>
        if lineReady s l then (some w, { s with ports := taken p l }) else (none, { s with ports := p })

/-- The answer to a word that is no instruction: an ILLEGAL command changes no state and returns ILLEGAL (R97); a
strobe at level 0 is no event. -/
def rejectStim (w : Stim) (s : State) : Host.Outcome State Fault Refusal :=
  match w with
  | .cmd _ _ => respond .illegal s
  | .rx _ | .aux _ | .strobe _ _ => .next s

/-- `s` with the word `w` presented next on its line and the line ready, so that the very next step takes it: the
word comes before what the source already holds, the line is next in the schedule, and the handshake's own condition
(R53) is made true where the line has one (log entry 12). -/
def placeStim (w : Stim) (s : State) : State :=
  match w with
  | .cmd c d => { s with ports := { s.ports with hostQ := (c, d) :: s.ports.hostQ, schedule := .host :: s.ports.schedule } }
  | .rx t =>
    { s with
      armed := true, ungetV := false
      ports := { s.ports with rxQ := t :: s.ports.rxQ, schedule := .rx :: s.ports.schedule } }
  | .aux a =>
    { s with
      armed := true
      ports := { s.ports with auxQ := a :: s.ports.auxQ, schedule := .aux :: s.ports.schedule } }
  | .strobe k _ =>
    { s with
      txBusy := s.txBusy || decide (k = .txReady ∨ k = .txFail)
      ungetV := s.ungetV || decide (k = .replay)
      ports := { s.ports with schedule := .strobe k :: s.ports.schedule } }

end Sys2Proof.Machine
end

