-- ==== Sys2Proof/Machine/Dispatch.lean ====
section
/-! DEFINITION. One arm per instruction: exec sends each to its meaning. -/

namespace Sys2Proof.Machine

def exec (i : Instr) (s : State) : Host.Outcome State Fault Refusal :=
  match i with
  -- control and status (45_control.md), identifier set (43_dispatch.md)
  | .nop => Sys2Proof.Machine.execNop s
  | .rxArm => Sys2Proof.Machine.execRxArm s
  | .rdStatus => Sys2Proof.Machine.execRdStatus s
  | .rdCursor => Sys2Proof.Machine.execRdCursor s
  | .setExt p m => Sys2Proof.Machine.execSetExt p m s
  -- cursor (42_cursor.md) and identifier read (43_dispatch.md)
  | .curInit => Sys2Proof.Machine.execCurInit s
  | .getBytes n => Sys2Proof.Machine.execGetBytes n s
  | .getI16 => Sys2Proof.Machine.execGetI16 s
  | .getU16 => Sys2Proof.Machine.execGetU16 s
  | .getI32 => Sys2Proof.Machine.execGetI32 s
  | .getU32 => Sys2Proof.Machine.execGetU32 s
  | .getI64 => Sys2Proof.Machine.execGetI64 s
  | .getU64 => Sys2Proof.Machine.execGetU64 s
  | .getF32 => Sys2Proof.Machine.execGetF32 s
  | .getF64 => Sys2Proof.Machine.execGetF64 s
  | .getId => Sys2Proof.Machine.execGetId s
  -- TX framer (41_framebuilder.md) and send (44_transport.md)
  | .txOpen => Sys2Proof.Machine.execTxOpen s
  | .txPut8 b => Sys2Proof.Machine.execTxPut8 b s
  | .txPut16 v => Sys2Proof.Machine.execTxPut16 v s
  | .txPut32 v => Sys2Proof.Machine.execTxPut32 v s
  | .txPut64 v => Sys2Proof.Machine.execTxPut64 v s
  | .txPutN n v => Sys2Proof.Machine.execTxPutN n v s
  | .txChecksum => Sys2Proof.Machine.execTxChecksum s
  | .txClose => Sys2Proof.Machine.execTxClose s
  | .txCommand id => Sys2Proof.Machine.execTxCommand id s
  | .txSend => Sys2Proof.Machine.execTxSend s
  -- stimuli (40_framecodec.md, 44_transport.md, 70_reset_and_hazards.md)
  | .rxByte b => Sys2Proof.Machine.execRxByte b s
  | .rxEos => Sys2Proof.Machine.execRxEos s
  | .auxByte a => Sys2Proof.Machine.execAuxByte a s
  | .tick => Sys2Proof.Machine.execTick s
  | .txAccept => Sys2Proof.Machine.execTxAccept s
  | .txFail => Sys2Proof.Machine.execTxFail s
  | .replay => Sys2Proof.Machine.execReplay s
  | .reset => Sys2Proof.Machine.execReset s

end Sys2Proof.Machine
end

