-- ==== Sys2Proof/Machine/Step.lean ====
section
/-! DEFINITION. The step of the machine: the next transfer is fetched, decoded and executed (R15). -/

namespace Sys2Proof.Machine

/-- One step. Without a transfer the block waits, which leaves its state as it is (R312). -/
def step (s : State) : Host.Outcome State Fault Refusal :=
  match fetch s with
  | (none, t) => .next t
  | (some w, t) =>
    match decode w with
    | .ok i => exec i t
    | .error _ => rejectStim w t

/-- `s` with a word of spec/opcode_table.json presented where the next step takes its stimulus. -/
def State.withFetchWord (s : State) (nbits w : Nat) : State := placeStim (tableStim nbits w) s

end Sys2Proof.Machine
end

