-- ==== Sys2Proof/Safety.lean ====
section
/-! DEFINITION. What claims are stated in terms of: sequences of stimuli, the bytes a buffer holds, the checksum claim
of a payload, and the invariants of the block (R51, R52, R134). -/

namespace Sys2Proof.Machine

/-- The meanings of a sequence of instructions, one after the other, stopping at the first that gives no next state. -/
def execAll : List Instr → State → Host.Outcome State Fault Refusal
  | [], s => .next s
  | i :: is, s =>
    match exec i s with
    | .next t => execAll is t
    | .fault f => .fault f
    | .refused r => .refused r

/-- n steps of the machine, one after the other. -/
def runSteps : Nat → State → Host.Outcome State Fault Refusal
  | 0, s => .next s
  | n + 1, s =>
    match step s with
    | .next t => runSteps n t
    | .fault f => .fault f
    | .refused r => .refused r

/-- The bits of the data word a command reads (R95). -/
def dataMask : Instr → Quad
  | .setExt _ _ => 1#64
  | .txPut16 _ | .txCommand _ => 0xFFFF#64
  | .txPut32 _ => 0xFFFFFFFF#64
  | .txPut64 _ => 0xFFFFFFFFFFFFFFFF#64
  | .txPutN n _ => BitVec.ofNat 64 (2 ^ (8 * n) - 1)
  | _ => 0#64

/-- The buffer holds the bytes `bs` from index `i` on. -/
def holds (m : Memory) (i : Nat) (bs : List Byte) : Prop := ∀ j : Nat, j < bs.length → m.read (i + j) = bs[j]?

/-- The checksum claim of a payload in the closed form of R134: 3 bytes or more, and the last two, big-endian, are the
sum of all the others modulo 2^16. -/
def checksumClaim (p : List Byte) : Bool :=
  decide (2 < p.length) && decide (be (p.drop (p.length - 2)) = (byteSum (p.take (p.length - 2))).toNat)

/-- The bytes a put command routes through put, most significant first (R163 to R167, R70). -/
def putBytes : Instr → Option (List Byte)
  | .txPut8 b => some [b]
  | .txPut16 v => some [v.extractLsb' 8 8, v.extractLsb' 0 8]
  | .txPut32 v => some [v.extractLsb' 24 8, v.extractLsb' 16 8, v.extractLsb' 8 8, v.extractLsb' 0 8]
  | .txPut64 v => some ((List.range 8).map (fun j => v.extractLsb' (8 * (7 - j)) 8))
  | .txPutN n v => if legalCount n then some ((List.range n).map (fun j => v.extractLsb' (8 * (n - 1 - j)) 8)) else none
  | _ => none

/-- What a TX command does that writes the wire bytes `wire` and adds `sum` to the running sum (R161): BUSY while a
send is in progress; OVERFLOW when the frame already overflowed; OVERFLOW with `tx_ovf` set and nothing written when
the bytes do not fit; else the bytes stand at `tbuf[tlen ..]`, every other index reads as before, and nothing else
changes. -/
def WritesWire (i : Instr) (s : State) (wire : List Byte) (sum : Half) : Prop :=
  (s.txBusy = true → exec i s = .next (s.answer .busy)) ∧
  (s.txBusy = false → s.txOvf = true → exec i s = .next (s.answer .overflow)) ∧
  (s.txBusy = false → s.txOvf = false → s.cfg.txCap < s.tlen.toNat + wire.length →
    exec i s = .next (State.answer .overflow { s with txOvf := true })) ∧
  (s.txBusy = false → s.txOvf = false → s.tlen.toNat + wire.length ≤ s.cfg.txCap →
    ∃ m : Memory,
      exec i s = .next (State.answer .ok
        { s with tbuf := m, tlen := s.tlen + BitVec.ofNat 16 wire.length, tsum := s.tsum + sum }) ∧
      holds m s.tlen.toNat wire ∧
      ∀ a : Nat, a < s.tlen.toNat ∨ s.tlen.toNat + wire.length ≤ a → m.read a = s.tbuf.read a)

/-- What a scalar get of n bytes does (R190, R191, R194, R202): BUSY while armed; else, with `bs` the bytes that are
there (at most n), the cursor moves over them, and `rdata` takes their value when all n were there and stays as it
was, with SHORT, when not. Nothing else changes. -/
def GetsScalar (i : Instr) (n : Nat) (value : List Byte → Quad) (s : State) : Prop :=
  (s.armed = true → exec i s = .next (s.answer .busy)) ∧
  (∀ bs : List Byte, s.armed = false → s.coff.toNat ≤ s.clen.toNat →
    bs.length = min n (s.clen.toNat - s.coff.toNat) → s.coff.toNat + bs.length ≤ s.cfg.rxCap →
    holds s.rbuf s.coff.toNat bs →
    (bs.length = n →
      exec i s = .next (State.answer .ok
        { s with coff := s.coff + BitVec.ofNat 16 n, rcount := BitVec.ofNat 4 n, rdata := value bs })) ∧
    (bs.length < n →
      exec i s = .next (State.answer .short { s with coff := s.clen, rcount := BitVec.ofNat 4 bs.length })))

/-- `s` with the TX framer state of `u` (R45 to R50). -/
def State.withTx (u s : State) : State :=
  { s with
    tbuf := u.tbuf, tlen := u.tlen, tsum := u.tsum, txOvf := u.txOvf, txBusy := u.txBusy, txPtr := u.txPtr
    txErr := u.txErr }

/-- `s` with the RX, result and cursor state of `u` (R31 to R40). -/
def State.withRx (u s : State) : State :=
  { s with
    rxState := u.rxState, rbuf := u.rbuf, rlen := u.rlen, s0 := u.s0, s1 := u.s1, s2 := u.s2
    ungetV := u.ungetV, ungetB := u.ungetB, armed := u.armed, idleCnt := u.idleCnt
    resPending := u.resPending, resKind := u.resKind, resLen := u.resLen, resValid := u.resValid
    resForced := u.resForced, clen := u.clen, coff := u.coff }

/-- The next state of an outcome changed by `f`; a fault or a refusal stays. -/
def mapNext (f : State → State) : Host.Outcome State Fault Refusal → Host.Outcome State Fault Refusal
  | .next t => .next (f t)
  | .fault x => .fault x
  | .refused x => .refused x

/-- The commands and steps of the RX side: deframer, get-frame handshake, cursor, identifier read. -/
def rxSide : Instr → Bool
  | .rxArm | .rxByte _ | .rxEos | .auxByte _ | .tick | .replay => true
  | .curInit | .getBytes _ | .getI16 | .getU16 | .getI32 | .getU32 | .getI64 | .getU64 | .getF32 | .getF64 => true
  | .getId => true
  | _ => false

/-- The commands and steps of the TX side. -/
def txSide : Instr → Bool
  | .txOpen | .txPut8 _ | .txPut16 _ | .txPut32 _ | .txPut64 _ | .txPutN _ _ | .txChecksum | .txClose => true
  | .txCommand _ | .txSend | .txAccept | .txFail => true
  | _ => false

/-- A frame is in progress (R235). -/
abbrev inFrame (s : State) : Prop := s.rxState = .awaitData ∨ s.rxState = .awaitEsc

/-- The end of a run (R313): the host has no command left, no RX token is left that the block would take, no replay is
pending, and nothing is scheduled. DESIGN CHOICE, log entry 21: R313 does not say whether a run goes on while ticks, aux
bytes or sink strobes of the script are still to come, nor when a token that stands behind one held at a port that is
not ready counts as presented; here the whole schedule runs first, and such tokens may remain. -/
abbrev runEnded (s : State) : Prop :=
  upcoming s.ports.schedule s.ports.scheduleLoop = [] ∧ upcoming s.ports.hostQ s.ports.hostLoop = [] ∧
  (upcoming s.ports.rxQ s.ports.rxLoop = [] ∨ rxReady s = false) ∧ s.ungetV = false

/-- The invariant of the block: the points of R51, but for `tx_ptr ≤ tlen`, which R51 claims and R162's TX_OPEN breaks
(log entry 10): here `tx_ptr < tlen` while a send is in progress, and `tx_ptr ≤ TX_CAP` always; the parameters' constraints (R9); and what the same rules
need or add: the buffers' form and bounds (R32, R45, R52), the idle counter (R37, R236), the result registers (R38),
`rcount` (R44). -/
structure Inv (s : State) : Prop where
  cfgWf : s.cfg.wf
  rbufWf : s.rbuf.wf
  tbufWf : s.tbuf.wf
  rbufBound : ∀ c ∈ s.rbuf, c.1 < s.cfg.rxCap
  tbufBound : ∀ c ∈ s.tbuf, c.1 < s.cfg.txCap
  /-- "no rule reads an index ≥ `rlen`" (R32): every index below it has been written -/
  payloadWritten : ∀ i : Nat, i < s.rlen.toNat → (s.rbuf.read i).isSome
  /-- every index below `tlen` has been written (R45) -/
  frameWritten : ∀ i : Nat, i < s.tlen.toNat → (s.tbuf.read i).isSome
  coffLe : s.coff.toNat ≤ s.clen.toNat
  clenLe : s.clen.toNat ≤ s.rlen.toNat
  rlenLe : s.rlen.toNat ≤ s.cfg.rxCap
  armedCursor : s.armed = true → s.clen = 0 ∧ s.coff = 0
  ungetState : s.ungetV = true →
    s.armed = true ∧ s.rxState = .start ∧ s.ungetB ≠ startMarker ∧ s.ungetB ≠ terminator
  disarmed : s.armed = false → s.rxState = .start ∧ s.ungetV = false ∧ s.idleCnt = 0
  frameStarted : inFrame s → 1 ≤ s.rlen.toNat
  tlenLe : s.tlen.toNat ≤ s.cfg.txCap
  sending : s.txBusy = true → s.txPtr.toNat < s.tlen.toNat ∧ s.txOvf = false
  noResult : s.resPending = false → s.resKind = .none
  armedNoResult : s.armed = true → s.resPending = false
  notFrame : s.resKind ≠ .frame → s.resLen = 0 ∧ s.resValid = false ∧ s.resForced = false
  frameLen : s.resKind = .frame → s.resLen = s.rlen
  idleLt : s.idleCnt.toNat < s.cfg.idleLimit
  rcountLe : s.rcount.toNat ≤ 8
  /-- what is left of R51's `tx_ptr ≤ tlen ≤ TX_CAP` between a TX_OPEN and the next TX_SEND (log entry 10) -/
  txPtrLe : s.txPtr.toNat ≤ s.cfg.txCap

/-- The delay line while a frame is in progress (R34, R134): with the payload so far P, `s2` is the sum of P, `s1` of
all but its last byte and `s0` of all but its last two, as far as those exist. -/
def DelayLine (s : State) : Prop :=
  inFrame s → ∃ p : List Byte,
    p.length = s.rlen.toNat ∧ 1 ≤ p.length ∧ holds s.rbuf 0 p ∧ s.s2 = byteSum p ∧
    (2 ≤ p.length → s.s1 = byteSum (p.take (p.length - 1))) ∧
    (3 ≤ p.length → s.s0 = byteSum (p.take (p.length - 2)))

end Sys2Proof.Machine
end

