-- ==== Sys2Proof/Certificates/Slice0/Obligations.lean ====
section
/-! DEFINITION. The statements for the provers. Each formalises numbered rules of spec/, cited in its docstring and in
OBLIGATIONS.json; where a clause rests on the model's own choice its docstring names the log entry. -/

open Sys2Proof Sys2Proof.Machine

/-! ### Encoding and stepping -/

/-- R93, R94, R95, R100: decoding the encoding of a well-formed instruction gives it back, operands whole. -/
def Obligations.DecodeUndoesEncode : Prop :=
  ∀ i : Instr, wellFormed i = true → decode (encode i) = .ok i

/-- R91, R92, R93, R95: what decodes is well formed, and its encoding is the word it came from but for the bits the
instruction does not read, which the encoder leaves zero: of a command's data word the bits R95 lists as read
(dataMask) are kept, each of them; of an RX_EOS token the low bits are not read. -/
def Obligations.DecodedWordsReencode : Prop :=
  ∀ (w : Stim) (i : Instr), decode w = .ok i →
    wellFormed i = true ∧
    (∀ c d, w = .cmd c d → encode i = .cmd c (d &&& dataMask i)) ∧
    (∀ t, w = .rx t → t.getLsbD 8 = false → encode i = .rx t) ∧
    (∀ t, w = .rx t → t.getLsbD 8 = true → i = .rxEos) ∧
    (∀ a, w = .aux a → encode i = .aux a) ∧
    (∀ k v, w = .strobe k v → encode i = .strobe k v)

/-- R93, R91: words of the spec's own tables and vectors (95: FB4, FB5, FB8, FB9, DI5, CU5, CU18) decode as the spec
says. -/
def Obligations.SpecWordsDecode : Prop :=
  decode (.cmd 0x048E 1) = .ok (.setExt 0x8E true) ∧
  decode (.cmd 0x048E 0xFFFFFFFE) = .ok (.setExt 0x8E false) ∧
  decode (.cmd 0x1300 0) = .ok .getU16 ∧
  decode (.cmd 0x1103 0) = .ok (.getBytes 3) ∧
  decode (.cmd 0x2110 0) = .ok (.txPut8 0x10) ∧
  decode (.cmd 0x2200 0xFFFF1234) = .ok (.txPut16 0x1234) ∧
  decode (.cmd 0x2503 0xFFFF414243) = .ok (.txPutN 3 0x414243) ∧
  decode (.cmd 0x2800 0x8E15) = .ok (.txCommand 0x8E15) ∧
  decode (.rx 0x04B) = .ok (.rxByte 0x4B) ∧
  decode (.rx 0x1FF) = .ok .rxEos ∧
  decode (.aux 0x71) = .ok (.auxByte 0x71) ∧
  decode (.strobe .tick 1) = .ok .tick

/-- R97: a command is ILLEGAL exactly in the cases (a), (b), (c), whatever its data word; and an ILLEGAL command the
host presents changes no state and returns ILLEGAL, in every state. (The schedule, which says that it is the host's
turn, is the model's: log entry 2.) -/
def Obligations.IllegalCommandsChangeNothing : Prop :=
  ∀ (c : BitVec 16) (d : Quad),
    ((∃ e, decode (.cmd c d) = .error e) ↔
      ((c.extractLsb' 8 8).toNat ∉
          [0x00, 0x01, 0x02, 0x03, 0x04, 0x10, 0x11, 0x12, 0x13, 0x14, 0x15, 0x16, 0x17, 0x18, 0x19, 0x1A,
           0x20, 0x21, 0x22, 0x23, 0x24, 0x25, 0x26, 0x27, 0x28, 0x29] ∨
        ((c.extractLsb' 8 8).toNat ∉ [0x04, 0x11, 0x21, 0x25] ∧ (c.extractLsb' 0 8).toNat ≠ 0) ∨
        ((c.extractLsb' 8 8).toNat ∈ [0x11, 0x25] ∧
          ((c.extractLsb' 0 8).toNat = 0 ∨ 8 < (c.extractLsb' 0 8).toNat)))) ∧
    ((∃ e, decode (.cmd c d) = .error e) →
      ∀ (s : State) (ls : List Line) (q : List (BitVec 16 × Quad)),
        s.ports.schedule = .host :: ls → upcoming s.ports.hostQ s.ports.hostLoop = (c, d) :: q →
        step s = .next
          { s with
            ports :=
              { s.ports with
                schedule := ls, hostQ := q
                responses := s.ports.responses ++ [⟨.illegal, s.rdata, s.rcount⟩] } })

/-- R15, R53 (the handshake conditions; the schedule is the model's, log entry 2): when the line whose turn it is
presents a word, the port takes it and it decodes to i, the step is exec of i, the word taken from its source. -/
def Obligations.StepRunsTheTransferredInstruction : Prop :=
  ∀ (s : State) (ls : List Line) (i : Instr),
    (∀ c d q, s.ports.schedule = .host :: ls → upcoming s.ports.hostQ s.ports.hostLoop = (c, d) :: q →
      decode (.cmd c d) = .ok i →
      step s = exec i { s with ports := { s.ports with schedule := ls, hostQ := q } }) ∧
    (∀ t q, s.ports.schedule = .rx :: ls → upcoming s.ports.rxQ s.ports.rxLoop = t :: q → s.armed = true →
      s.ungetV = false → decode (.rx t) = .ok i →
      step s = exec i { s with ports := { s.ports with schedule := ls, rxQ := q } }) ∧
    (∀ a q, s.ports.schedule = .aux :: ls → upcoming s.ports.auxQ s.ports.auxLoop = a :: q → s.armed = true →
      decode (.aux a) = .ok i →
      step s = exec i { s with ports := { s.ports with schedule := ls, auxQ := q } }) ∧
    (∀ k, s.ports.schedule = .strobe k :: ls → decode (.strobe k 1) = .ok i →
      step s = exec i { s with ports := { s.ports with schedule := ls } })

/-- R53, R54, R83 (log entry 4): a port that is not ready takes nothing; its source keeps what it presents, and a
pending replay holds off every RX token. R312, R132 (log entries 2 and 3): at the end of the schedule a pending replay
runs; without one the schedule goes on with its loop, and where it has none the block waits. -/
def Obligations.StepsWithoutATransfer : Prop :=
  ∀ (s : State) (ls : List Line),
    (s.ports.schedule = .rx :: ls → s.armed = false ∨ s.ungetV = true →
      step s = .next { s with ports := { s.ports with schedule := ls } }) ∧
    (s.ports.schedule = .aux :: ls → s.armed = false →
      step s = .next { s with ports := { s.ports with schedule := ls } }) ∧
    (s.ports.schedule = [] → s.ungetV = true → step s = exec .replay s) ∧
    (s.ports.schedule = [] → s.ungetV = false → s.ports.scheduleLoop = [] → step s = .next s) ∧
    (s.ports.schedule = [] → s.ungetV = false →
      step s = step { s with ports := { s.ports with schedule := s.ports.scheduleLoop } })

/-- What exec answers where no rule speaks, the model's choice. R53 and the "enabled when" line of each stimulus (log
entry 5): a stimulus that is not enabled changes nothing. R97 (c), on terms no word decodes to (log entry 17): a count
outside 1..8 answers ILLEGAL and changes nothing else. -/
def Obligations.DisabledStimuliAndIllegalCountsChangeNothing : Prop :=
  ∀ (s : State) (b : Byte) (n : Nat) (v : Quad),
    (s.armed = false ∨ s.ungetV = true → exec (.rxByte b) s = .next s ∧ exec .rxEos s = .next s) ∧
    (s.armed = false → exec (.auxByte b) s = .next s) ∧
    (s.txBusy = false → exec .txAccept s = .next s ∧ exec .txFail s = .next s) ∧
    (s.ungetV = false → exec .replay s = .next s) ∧
    (n = 0 ∨ 8 < n →
      exec (.getBytes n) s = .next (s.answer .illegal) ∧ exec (.txPutN n v) s = .next (s.answer .illegal))

/-! ### Reset and invariants -/

/-- R300: RESET gives every element its reset value, and the port outputs follow. The buffers' contents are unspecified
there and nothing is said of them. (That no source loses anything, R301 and log entry 14, is in
EveryCommandAnswersOnce.) -/
def Obligations.ResetGivesEveryElementItsResetValue : Prop :=
  ∀ s : State, ∃ t : State, exec .reset s = .next t ∧
    t.rxState = .start ∧ t.rlen = 0 ∧ t.s0 = 0 ∧ t.s1 = 0 ∧ t.s2 = 0 ∧ t.ungetV = false ∧ t.ungetB = 0 ∧
    t.armed = false ∧ t.idleCnt = 0 ∧ t.resPending = false ∧ t.resKind = .none ∧ t.resLen = 0 ∧
    t.resValid = false ∧ t.resForced = false ∧ t.clen = 0 ∧ t.coff = 0 ∧ t.extMask = s.cfg.extReset ∧
    t.rdata = 0 ∧ t.rcount = 0 ∧ t.tlen = 0 ∧ t.tsum = 0 ∧ t.txOvf = false ∧ t.txBusy = false ∧ t.txPtr = 0 ∧
    t.txErr = false ∧ rxReady t = false ∧ auxReady t = false ∧ txValid t = false ∧
    t.cfg = s.cfg

/-- R51: the invariant holds after reset, for all parameters that meet R9 and all ports; so at State.reset. -/
def Obligations.InvariantHoldsAfterReset : Prop :=
  (∀ (c : Config) (p : Ports), c.wf → Inv (State.resetOf c p) ∧ DelayLine (State.resetOf c p)) ∧
  Inv State.reset ∧ DelayLine State.reset

/-- R51, R52 (with `tx_ptr < tlen` only while sending, log entry 10): every step keeps the invariant. -/
def Obligations.StepKeepsInvariant : Prop :=
  ∀ s t : State, Inv s → step s = .next t → Inv t

/-- R34, R134: every step keeps the delay line two, one and no bytes behind the sum of the payload. -/
def Obligations.StepKeepsDelayLine : Prop :=
  ∀ s t : State, Inv s → DelayLine s → step s = .next t → DelayLine t

/-- R32, R45, R52, R79: no step from a state of the invariant touches a byte that does not exist or was never written,
and every such state has a next state. (The faults that such an access would raise are the model's own, log entries 6
and 7.) -/
def Obligations.StepNeverStops : Prop :=
  ∀ s : State, Inv s → ∃ t : State, step s = .next t

/-- R9: no step changes the build parameters. -/
def Obligations.StepKeepsParameters : Prop :=
  ∀ s t : State, step s = .next t → t.cfg = s.cfg

/-- R82: "The block never reorders, drops or duplicates an RX token": a step leaves the RX source's tokens as they are
or takes the first one of those to come, and only while `rx_ready` and as that source's transfer; and a taken token is
run. (The lists and their loops are the model's, log entry 2.) -/
def Obligations.RxTokensAreTakenInOrder : Prop :=
  ∀ s t : State, step s = .next t →
    t.ports.rxLoop = s.ports.rxLoop ∧
    (t.ports.rxQ = s.ports.rxQ ∨
    ∃ (tok : BitVec 9) (ls : List Line), upcoming s.ports.rxQ s.ports.rxLoop = tok :: t.ports.rxQ ∧
      s.armed = true ∧ s.ungetV = false ∧ upcoming s.ports.schedule s.ports.scheduleLoop = .rx :: ls ∧
      ∃ i : Instr, decode (.rx tok) = .ok i ∧
        exec i { s with ports := { s.ports with schedule := ls, rxQ := t.ports.rxQ } } = .next t)

/-- R14, R53, R96: a host command gives exactly one response, which carries `rdata` and `rcount` as it leaves them, and
sends nothing; no other step gives a response; and no instruction, RESET among them (R301, log entry 14), takes or adds
anything in a source's list or the schedule. -/
def Obligations.EveryCommandAnswersOnce : Prop :=
  ∀ (i : Instr) (s t : State), exec i s = .next t →
    t.ports = { s.ports with
      responses := t.ports.responses, txOut := t.ports.txOut, auxOut := t.ports.auxOut } ∧
    ((encode i).line = .host →
      (∃ st : Status, t.ports.responses = s.ports.responses ++ [⟨st, t.rdata, t.rcount⟩]) ∧
      t.ports.txOut = s.ports.txOut ∧ t.ports.auxOut = s.ports.auxOut) ∧
    ((encode i).line ≠ .host → t.ports.responses = s.ports.responses) ∧
    (i ≠ .txAccept → t.ports.txOut = s.ports.txOut) ∧
    ((∀ a, i ≠ .auxByte a) → t.ports.auxOut = s.ports.auxOut)

/-! ### RX deframer -/

/-- R123: in START a start marker opens a frame and any other byte is noise. -/
def Obligations.RxByteInStart : Prop :=
  ∀ (s : State) (b : Byte), s.armed = true → s.ungetV = false → s.rxState = .start →
    exec (.rxByte b) s = .next { s with idleCnt := 0, rxState := if b = 0x10#8 then .awaitId else .start }

/-- R124: in AWAIT_ID a repeated start marker stays and a terminator is a spurious end; no result, `rlen` and `rbuf`
unchanged. -/
def Obligations.MarkersInAwaitId : Prop :=
  ∀ s : State, s.armed = true → s.ungetV = false → s.rxState = .awaitId →
    exec (.rxByte 0x10#8) s = .next { s with idleCnt := 0 } ∧
    exec (.rxByte 0x03#8) s = .next { s with idleCnt := 0, rxState := .start }

/-- R126: the identifier clears the payload, is its first byte, seeds s2 without a shift and resets the validity flag;
every other byte of `rbuf`, and everything else, stays. -/
def Obligations.IdentifierStartsAFrame : Prop :=
  ∀ (s : State) (b : Byte), s.armed = true → s.ungetV = false → s.rxState = .awaitId → 1 ≤ s.cfg.rxCap →
    b ≠ 0x10#8 → b ≠ 0x03#8 →
    ∃ m : Memory,
      exec (.rxByte b) s = .next
        { s with
          idleCnt := 0, rbuf := m, rlen := 1, s2 := b.setWidth 16, resValid := false, rxState := .awaitData } ∧
      m.read 0 = some b ∧ ∀ a : Nat, a ≠ 0 → m.read a = s.rbuf.read a

/-- R125, R129, R127 (its first case): in AWAIT_DATA a start marker is an escape; any other byte, and in AWAIT_ESC a
literal 0x10, is a body byte. One that fits is appended, the delay line shifts, and the frame goes on. R130, R131,
R272: the byte that would be payload byte RX_CAP+1 is neither stored nor summed; the frame is discarded and the
get_frame ends with TOO_LONG. -/
def Obligations.BodyBytesAreAppendedOrOverflow : Prop :=
  ∀ (s : State) (b : Byte), s.armed = true → s.ungetV = false →
    (s.rxState = .awaitData → exec (.rxByte 0x10#8) s = .next { s with idleCnt := 0, rxState := .awaitEsc }) ∧
    (s.rxState = .awaitData ∧ b ≠ 0x10#8 ∨ s.rxState = .awaitEsc ∧ b = 0x10#8 →
      (s.rlen.toNat < s.cfg.rxCap →
        ∃ m : Memory,
          exec (.rxByte b) s = .next
            { s with
              idleCnt := 0, rbuf := m, rlen := s.rlen + 1
              s0 := s.s1, s1 := s.s2, s2 := s.s2 + b.setWidth 16, rxState := .awaitData } ∧
          m.read s.rlen.toNat = some b ∧ ∀ a : Nat, a ≠ s.rlen.toNat → m.read a = s.rbuf.read a) ∧
      (s.rlen.toNat = s.cfg.rxCap →
        exec (.rxByte b) s = .next
          { s with
            idleCnt := 0, rlen := 0, rxState := .start, armed := false
            resPending := true, resKind := .tooLong, resLen := 0, resValid := false, resForced := false }))

/-- R133: a terminator after an escape (normal completion) and the expiring tick (forced completion) deliver the
payload with its validity flag: for more than 2 bytes, s0's low byte is the last and its high byte the second-to-last;
for 2 or fewer, no claim. Payload, delay line and everything else stay. -/
def Obligations.CompletionDeliversTheFrame : Prop :=
  ∀ (s : State) (i : Instr) (forced : Bool), s.armed = true → s.ungetV = false →
    (i = .rxByte 0x03#8 ∧ s.rxState = .awaitEsc ∧ forced = false ∨
      i = .tick ∧ (s.rxState = .awaitData ∨ s.rxState = .awaitEsc) ∧ s.cfg.idleLimit ≤ s.idleCnt.toNat + 1 ∧
        forced = true) →
    (s.rlen.toNat ≤ 2 →
      exec i s = .next
        { s with
          idleCnt := 0, rxState := .start, armed := false
          resPending := true, resKind := .frame, resLen := s.rlen, resValid := false, resForced := forced }) ∧
    (∀ lo hi : Byte, 2 < s.rlen.toNat → s.rlen.toNat ≤ s.cfg.rxCap →
      s.rbuf.read (s.rlen.toNat - 1) = some lo → s.rbuf.read (s.rlen.toNat - 2) = some hi →
      exec i s = .next
        { s with
          idleCnt := 0, rxState := .start, armed := false
          resPending := true, resKind := .frame, resLen := s.rlen
          resValid := decide (s.s0.extractLsb' 0 8 = lo ∧ s.s0.extractLsb' 8 8 = hi), resForced := forced })

/-- R128, R131, R127 (its last case): an escape followed by any other byte discards the frame silently and puts the
byte in the unget slot; no result, still armed. -/
def Obligations.ViolationDiscardsSilently : Prop :=
  ∀ (s : State) (b : Byte), s.armed = true → s.ungetV = false → s.rxState = .awaitEsc → b ≠ 0x10#8 → b ≠ 0x03#8 →
    exec (.rxByte b) s = .next
      { s with idleCnt := 0, rlen := 0, rxState := .start, ungetV := true, ungetB := b }

/-- R132: REPLAY delivers the byte again in START, where it is discarded, so it changes nothing but `unget_v`. That the
byte is no marker and the state is START whenever it is enabled is R51, in the invariant. -/
def Obligations.ReplayChangesOnlyUngetV : Prop :=
  ∀ s : State, Inv s → s.ungetV = true → exec .replay s = .next { s with ungetV := false }

/-- R134: at completion of a frame of L ≥ 3 bytes s0 is the sum of all but the last two, and the frame is valid exactly
when the last two bytes, big-endian, equal that sum; a frame of 2 bytes or fewer is never valid. Normal and forced. -/
def Obligations.ValidityIsTheChecksumClaim : Prop :=
  ∀ (s : State) (i : Instr) (p : List Byte), Inv s → DelayLine s →
    (i = .rxByte 0x03#8 ∧ s.armed = true ∧ s.ungetV = false ∧ s.rxState = .awaitEsc ∨
      i = .tick ∧ inFrame s ∧ s.cfg.idleLimit ≤ s.idleCnt.toNat + 1) →
    p.length = s.rlen.toNat → holds s.rbuf 0 p →
    ∃ t : State, exec i s = .next t ∧ t.resKind = .frame ∧ t.resLen = s.rlen ∧ t.rbuf = s.rbuf ∧
      (3 ≤ p.length → t.s0 = byteSum (p.take (p.length - 2))) ∧
      (t.resValid = true ↔
        3 ≤ p.length ∧ be (p.drop (p.length - 2)) = (byteSum (p.take (p.length - 2))).toNat)

/-- R121, R136, R105: an armed deframer in START that is fed the wire form of a payload of at most RX_CAP bytes, whose
first byte is no marker, delivers exactly that payload, not forced, valid as its checksum claims; the rest of the
block but RX, result and idle state stays, the cursor included. -/
def Obligations.DeframerReadsTheWireForm : Prop :=
  ∀ (s : State) (p : List Byte), s.armed = true → s.ungetV = false → s.rxState = .start →
    1 ≤ p.length → p.length ≤ s.cfg.rxCap → s.cfg.rxCap ≤ 65535 → p.head? ≠ some 0x10#8 → p.head? ≠ some 0x03#8 →
    ∃ t : State, execAll ((wireFrame p).map Instr.rxByte) s = .next t ∧
      holds t.rbuf 0 p ∧ t.rlen.toNat = p.length ∧ t.resKind = .frame ∧ t.resLen.toNat = p.length ∧
      t.resForced = false ∧ t.resPending = true ∧ t.resValid = checksumClaim p ∧ t.armed = false ∧
      t.rxState = .start ∧ t.clen = s.clen ∧ t.coff = s.coff ∧ t = State.withRx t s

/-! ### Transport -/

/-- R230: RX_ARM is BUSY while armed; else it arms, clears the results, empties the cursor and restarts the idle
count. -/
def Obligations.RxArmStartsAGetFrame : Prop :=
  ∀ s : State,
    (s.armed = true → exec .rxArm s = .next (s.answer .busy)) ∧
    (s.armed = false →
      exec .rxArm s = .next (State.answer .ok
        { s with
          armed := true
          resPending := false, resKind := .none, resLen := 0, resValid := false, resForced := false
          clen := 0, coff := 0, idleCnt := 0 }))

/-- R232, R277: end of stream discards the frame in progress and ends the get_frame with EOS. -/
def Obligations.EndOfStreamDiscardsTheFrame : Prop :=
  ∀ s : State, s.armed = true → s.ungetV = false →
    exec .rxEos s = .next
      { s with
        rlen := 0, rxState := .start, armed := false, idleCnt := 0
        resPending := true, resKind := .eos, resLen := 0, resValid := false, resForced := false }

/-- R233: an aux byte is forwarded unchanged and restarts the idle count; nothing else changes. -/
def Obligations.AuxByteIsForwarded : Prop :=
  ∀ (s : State) (a : Byte), s.armed = true →
    exec (.auxByte a) s = .next
      { s with idleCnt := 0, ports := { s.ports with auxOut := s.ports.auxOut ++ [a] } }

/-- R236, R235: a tick does nothing while not armed; it counts while the limit is not reached; at the limit it only
restarts the count in START and AWAIT_ID (its forced completion is CompletionDeliversTheFrame). -/
def Obligations.TickCounts : Prop :=
  ∀ s : State,
    (s.armed = false → exec .tick s = .next s) ∧
    (s.armed = true → s.idleCnt.toNat + 1 < s.cfg.idleLimit →
      exec .tick s = .next { s with idleCnt := s.idleCnt + 1 }) ∧
    (s.armed = true → s.cfg.idleLimit ≤ s.idleCnt.toNat + 1 → s.rxState = .start ∨ s.rxState = .awaitId →
      exec .tick s = .next { s with idleCnt := 0 })

/-- R234, R132: the idle count is cleared by every accepted RX_BYTE, RX_EOS, AUX_BYTE and RX_ARM and by every result;
it stays under REPLAY, every other host command and the TX steps; and a tick moves it only while armed. -/
def Obligations.IdleCountRestartsOnActivity : Prop :=
  ∀ (i : Instr) (s t : State), Inv s → exec i s = .next t →
    (((∃ b, i = .rxByte b) ∨ i = .rxEos) ∧ s.armed = true ∧ s.ungetV = false ∨
        (∃ a, i = .auxByte a) ∧ s.armed = true ∨ i = .rxArm ∧ s.armed = false →
      t.idleCnt = 0) ∧
    (s.armed = true → t.armed = false → t.idleCnt = 0) ∧
    ((∀ b, i ≠ .rxByte b) → i ≠ .rxEos → (∀ a, i ≠ .auxByte a) → i ≠ .rxArm → i ≠ .tick → i ≠ .reset →
      t.idleCnt = s.idleCnt) ∧
    (i = .tick → s.armed = false → t.idleCnt = s.idleCnt)

/-- R235, R239: a frame in progress that falls silent is completed, forced, by the IDLE_LIMIT-th tick after the last
activity and by no earlier one. -/
def Obligations.SilentFrameIsForcedAtTheLimit : Prop :=
  ∀ s : State, Inv s → inFrame s → s.idleCnt = 0 →
    (∀ n : Nat, n < s.cfg.idleLimit →
      execAll (List.replicate n Instr.tick) s = .next { s with idleCnt := BitVec.ofNat 16 n }) ∧
    ∃ t : State, execAll (List.replicate s.cfg.idleLimit Instr.tick) s = .next t ∧
      t.armed = false ∧ t.resPending = true ∧ t.resKind = .frame ∧ t.resForced = true ∧ t.resLen = s.rlen ∧
      t.rbuf = s.rbuf

/-- R312, R238, R233, R241: the waits that never end. An armed block in START or AWAIT_ID whose sources are silent never
produces a result, however many ticks come: only the idle count moves. A frame in progress whose aux source goes on to
deliver a byte before the idle limit, round after round, is never completed, at any step of the run. An armed block
leaves a get_frame by no instruction but an RX token, a tick and RESET, and a send ends by none but TX_ACCEPT, TX_FAIL
and RESET. (The schedules and their loops are the model's, log entry 2.) -/
def Obligations.WaitsThatNeverEnd : Prop :=
  (∀ (s : State) (n : Nat), Inv s → s.armed = true → s.rxState = .start ∨ s.rxState = .awaitId →
    ∃ k : Nat, k < s.cfg.idleLimit ∧
      execAll (List.replicate n Instr.tick) s = .next { s with idleCnt := BitVec.ofNat 16 k }) ∧
  (∀ (s : State) (a : Byte) (k : Nat), Inv s → s.armed = true → inFrame s → s.idleCnt = 0 → k < s.cfg.idleLimit →
    s.ports.schedule = [] → s.ports.scheduleLoop = List.replicate k (Line.strobe .tick) ++ [Line.aux] →
    s.ports.auxQ = [] → s.ports.auxLoop = [a] →
    (∀ m : Nat, runSteps (m * (k + 1)) s =
      .next { s with ports := { s.ports with auxOut := s.ports.auxOut ++ List.replicate m a } }) ∧
    ∀ n : Nat, ∃ t : State, runSteps n s = .next t ∧ t.armed = true ∧ t.rxState = s.rxState ∧
      t.resPending = false ∧ t.rlen = s.rlen ∧ t.rbuf = s.rbuf) ∧
  (∀ (i : Instr) (s t : State), Inv s → exec i s = .next t → s.armed = true →
    (∀ b, i ≠ .rxByte b) → i ≠ .rxEos → i ≠ .tick → i ≠ .reset → t.armed = true) ∧
  (∀ (i : Instr) (s t : State), exec i s = .next t → s.txBusy = true →
    i ≠ .txAccept → i ≠ .txFail → i ≠ .reset → t.txBusy = true ∧ t.txPtr = s.txPtr ∧ t.tlen = s.tlen)

/-- R231: exactly three things end a get_frame: a FRAME, a TOO_LONG and an EOS result (and RESET, R300). -/
def Obligations.OnlyAResultEndsAGetFrame : Prop :=
  ∀ (i : Instr) (s t : State), exec i s = .next t → s.armed = true → t.armed = false →
    i = .reset ∨ t.resPending = true ∧ (t.resKind = .frame ∨ t.resKind = .tooLong ∨ t.resKind = .eos)

/-- R306: the result registers hold the last result until RX_ARM clears them (or RESET). -/
def Obligations.ResultIsHeldUntilRxArm : Prop :=
  ∀ (i : Instr) (s t : State), Inv s → s.resPending = true → i ≠ .rxArm → i ≠ .reset → exec i s = .next t →
    t.resPending = true ∧ t.resKind = s.resKind ∧ t.resLen = s.resLen ∧ t.resValid = s.resValid ∧
    t.resForced = s.resForced

/-- R305, R84: after a result no step changes a byte of the payload or its length until RX_ARM (or RESET); and RX_ARM
empties the cursor, so the old payload is no longer readable. -/
def Obligations.PayloadIsHeldUntilRxArm : Prop :=
  (∀ (i : Instr) (s t : State), s.armed = false → s.ungetV = false → i ≠ .rxArm → i ≠ .reset →
    exec i s = .next t → t.rbuf = s.rbuf ∧ t.rlen = s.rlen) ∧
  (∀ s t : State, s.armed = false → exec .rxArm s = .next t → t.clen = 0 ∧ t.coff = 0)

/-- R52, R31: `rx_state` moves only on a byte, an end of stream, the expiring idle timeout in a frame, a replay, or
reset. -/
def Obligations.StreamStateMovesOnlyOnItsCauses : Prop :=
  ∀ (i : Instr) (s t : State), exec i s = .next t → t.rxState ≠ s.rxState →
    (∃ b, i = .rxByte b) ∨ i = .rxEos ∨ i = .replay ∨ i = .reset ∨
    (i = .tick ∧ s.armed = true ∧ inFrame s ∧ s.cfg.idleLimit ≤ s.idleCnt.toNat + 1)

/-! ### TX framer and send -/

/-- R162, R49: TX_OPEN is BUSY while sending; else it resets the length, the sum and both sticky flags. `tx_ptr` and
`tbuf` stay. -/
def Obligations.TxOpenStartsAFrame : Prop :=
  ∀ s : State,
    (s.txBusy = true → exec .txOpen s = .next (s.answer .busy)) ∧
    (s.txBusy = false →
      exec .txOpen s = .next (State.answer .ok { s with tlen := 0, tsum := 0, txOvf := false, txErr := false }))

/-- R51's `tx_ptr ≤ tlen`, as far as the spec's own pseudocode keeps it: every instruction but TX_OPEN keeps it. The
model follows R162 and R49 where R51 differs (log entry 10): after a send of at least one byte, TX_OPEN leaves `tx_ptr`
above `tlen`, in a state that meets the invariant. -/
def Obligations.TxOpenLeavesTxPtrAboveTlen : Prop :=
  (∀ (i : Instr) (s t : State), Inv s → s.txPtr.toNat ≤ s.tlen.toNat → exec i s = .next t → i ≠ .txOpen →
    t.txPtr.toNat ≤ t.tlen.toNat) ∧
  ∀ s : State, Inv s → s.txBusy = false → 0 < s.txPtr.toNat →
    ∃ t : State, exec .txOpen s = .next t ∧ Inv t ∧ t.txPtr = s.txPtr ∧ t.tlen.toNat < t.txPtr.toNat

/-- R163, R164, R165, R166, R167, R161: the put commands write their bytes most significant first, each stuffed, and
add each byte once to the running sum; BUSY, OVERFLOW and the sticky overflow as WritesWire says. A TX_PUTN word with a
count outside 1..8 is rejected (its answer, ILLEGAL, is in IllegalCommandsChangeNothing). -/
def Obligations.PutsWriteStuffedBytes : Prop :=
  (∀ (s : State) (i : Instr) (p : List Byte), putBytes i = some p → WritesWire i s (stuff p) (byteSum p)) ∧
  ∀ (n : Byte) (d : Quad), n = 0 ∨ 8 < n.toNat → decode (.cmd (0x25#8 ++ n) d) = .error .countOutOfRange

/-- R168: TX_CHECKSUM puts the running sum as it stood, two bytes, big-endian, stuffed and summed like any put. -/
def Obligations.ChecksumAppendsTheRunningSum : Prop :=
  ∀ s : State,
    WritesWire .txChecksum s (stuff [s.tsum.extractLsb' 8 8, s.tsum.extractLsb' 0 8])
      ((s.tsum.extractLsb' 8 8).setWidth 16 + (s.tsum.extractLsb' 0 8).setWidth 16)

/-- R169: TX_CLOSE writes 10 03 verbatim and adds nothing to the running sum. -/
def Obligations.CloseAppendsTheTerminator : Prop :=
  ∀ s : State, WritesWire .txClose s [0x10#8, 0x03#8] 0

/-- R170: TX_COMMAND writes a start marker verbatim and the identifier through put, one byte if it fits, else high byte
then low byte; whether it enters the running sum is TX_SUM_INCLUDES_ID. -/
def Obligations.CommandWritesTheHeader : Prop :=
  ∀ (s : State) (id : BitVec 16),
    (id.toNat < 256 →
      WritesWire (.txCommand id) s (0x10#8 :: stuff [id.setWidth 8])
        (if s.cfg.txSumIncludesId then (id.setWidth 8).setWidth 16 else 0)) ∧
    (256 ≤ id.toNat →
      WritesWire (.txCommand id) s (0x10#8 :: stuff [id.extractLsb' 8 8, id.setWidth 8])
        (if s.cfg.txSumIncludesId then (id.extractLsb' 8 8).setWidth 16 + (id.setWidth 8).setWidth 16 else 0))

/-- R240: TX_SEND is BUSY while sending and OVERFLOW after an overflow; else it clears `tx_err`, starts at byte 0 and
sends when there is a byte to send. -/
def Obligations.TxSendStartsTheSend : Prop :=
  ∀ s : State,
    (s.txBusy = true → exec .txSend s = .next (s.answer .busy)) ∧
    (s.txBusy = false → s.txOvf = true → exec .txSend s = .next (s.answer .overflow)) ∧
    (s.txBusy = false → s.txOvf = false → 0 < s.tlen.toNat →
      exec .txSend s = .next (State.answer .ok { s with txErr := false, txPtr := 0, txBusy := true })) ∧
    (s.txBusy = false → s.txOvf = false → s.tlen = 0 →
      exec .txSend s = .next (State.answer .ok { s with txErr := false, txPtr := 0 }))

/-- R241: the sink takes the byte at `tx_ptr`, and the send ends after the last byte. -/
def Obligations.TxAcceptSendsOneByte : Prop :=
  ∀ (s : State) (b : Byte), s.txBusy = true → s.txPtr.toNat < s.cfg.txCap → s.tbuf.read s.txPtr.toNat = some b →
    exec .txAccept s = .next
      { s with
        txPtr := s.txPtr + 1, txBusy := decide (s.txPtr + 1 ≠ s.tlen)
        ports := { s.ports with txOut := s.ports.txOut ++ [b] } }

/-- R242: a write failure ends the send and sets `tx_err`, which the host sees in bit 11 of the status word, and keeps
`tx_ptr` and everything else; TX_SEND is then accepted again (a send in progress has not overflowed, R51) and restarts
from byte 0. -/
def Obligations.TxFailIsRecoverable : Prop :=
  ∀ s : State, s.txBusy = true →
    ∃ u : State, u = { s with txBusy := false, txErr := true } ∧ exec .txFail s = .next u ∧
      (∃ v : State, exec .rdStatus u = .next v ∧ v.rdata.getLsbD 11 = true) ∧
      (Inv s → exec .txSend u = .next (State.answer .ok { s with txErr := false, txPtr := 0, txBusy := true }))

/-- R240, R241: "bytes leave in index order, one per step, none skipped or repeated": TX_SEND and then one TX_ACCEPT
per byte put exactly tbuf[0 .. tlen-1] on the TX output and end the send. -/
def Obligations.SendEmitsTheFrameInOrder : Prop :=
  ∀ (s : State) (bs : List Byte), Inv s → s.txBusy = false → s.txOvf = false → bs.length = s.tlen.toNat →
    holds s.tbuf 0 bs →
    ∃ t : State, execAll (.txSend :: List.replicate bs.length .txAccept) s = .next t ∧
      t.ports.txOut = s.ports.txOut ++ bs ∧ t.txBusy = false ∧ t.txPtr = s.tlen ∧ t.tbuf = s.tbuf ∧
      t.tlen = s.tlen ∧ t.txErr = false

/-- R171, R105: a frame built by TX_OPEN, TX_COMMAND, puts, TX_CHECKSUM and TX_CLOSE is the wire form of its payload,
identifier, body and checksum bytes, and is len(P) + count(0x10 in P) + 3 bytes long. The checksum bytes are the sum
of the bytes that entered it (R168, R170). -/
def Obligations.BuiltFrameIsTheWireForm : Prop :=
  ∀ (s : State) (id : BitVec 16) (puts : List (Instr × List Byte)),
    (∀ x ∈ puts, putBytes x.1 = some x.2) →
    s.txBusy = false → s.cfg.txCap ≤ 65535 →
    let body := (puts.map Prod.snd).flatten
    let sum : Half := (if s.cfg.txSumIncludesId then byteSum (idBytes id) else 0) + byteSum body
    let p := idBytes id ++ body ++ [sum.extractLsb' 8 8, sum.extractLsb' 0 8]
    p.length + p.count 0x10#8 + 3 ≤ s.cfg.txCap →
    ∃ t : State,
      execAll (.txOpen :: .txCommand id :: (puts.map Prod.fst ++ [.txChecksum, .txClose])) s = .next t ∧
      t.tlen.toNat = p.length + p.count 0x10#8 + 3 ∧ holds t.tbuf 0 (wireFrame p) ∧ t.txOvf = false ∧
      t.txBusy = false ∧
      t = { s with
        tbuf := t.tbuf, tlen := t.tlen, tsum := t.tsum, txOvf := false, txErr := false
        ports := { s.ports with responses := t.ports.responses } }

/-- R172: the round trip. A frame built with TX_SUM_INCLUDES_ID = true on one block and fed, byte by byte, to an armed
deframer in START (of the same block or another) gives a FRAME with the payload built, not forced, and, when it is
longer than 2 bytes (it always ends in its checksum), valid. -/
def Obligations.BuiltFramesRoundTrip : Prop :=
  ∀ (s r : State) (id : BitVec 16) (puts : List (Instr × List Byte)),
    (∀ x ∈ puts, putBytes x.1 = some x.2) →
    s.txBusy = false → s.cfg.txCap ≤ 65535 → s.cfg.txSumIncludesId = true →
    let body := (puts.map Prod.snd).flatten
    let sum : Half := byteSum (idBytes id ++ body)
    let p := idBytes id ++ body ++ [sum.extractLsb' 8 8, sum.extractLsb' 0 8]
    p.length + p.count 0x10#8 + 3 ≤ s.cfg.txCap →
    r.armed = true → r.ungetV = false → r.rxState = .start → p.length ≤ r.cfg.rxCap → r.cfg.rxCap ≤ 65535 →
    p.head? ≠ some 0x10#8 → p.head? ≠ some 0x03#8 →
    ∃ (t : State) (wire : List Byte),
      execAll (.txOpen :: .txCommand id :: (puts.map Prod.fst ++ [.txChecksum, .txClose])) s = .next t ∧
      wire.length = t.tlen.toNat ∧ holds t.tbuf 0 wire ∧
      ∃ u : State, execAll (wire.map Instr.rxByte) r = .next u ∧
        holds u.rbuf 0 p ∧ u.rlen.toNat = p.length ∧ u.resKind = .frame ∧ u.resLen.toNat = p.length ∧
        u.resForced = false ∧ u.resValid = true

/-- R173: changing one byte of a valid payload, other than its last two, makes the received frame invalid (with the
framing kept: the changed payload is sent in its own wire form and its first byte is no marker). -/
def Obligations.OneChangedByteIsDetected : Prop :=
  ∀ (s : State) (p : List Byte) (i : Nat) (b : Byte), s.armed = true → s.ungetV = false → s.rxState = .start →
    p.length ≤ s.cfg.rxCap → s.cfg.rxCap ≤ 65535 → checksumClaim p = true →
    i + 3 ≤ p.length → p[i]? ≠ some b → (p.set i b).head? ≠ some 0x10#8 → (p.set i b).head? ≠ some 0x03#8 →
    ∃ t : State, execAll ((wireFrame (p.set i b)).map Instr.rxByte) s = .next t ∧
      t.resKind = .frame ∧ t.resLen.toNat = p.length ∧ t.resValid = false

/-! ### Cursor and identifier -/

/-- R192: CUR_INIT is BUSY while armed; else the cursor covers the whole payload from its start. -/
def Obligations.CurInitCoversThePayload : Prop :=
  ∀ s : State,
    (s.armed = true → exec .curInit s = .next (s.answer .busy)) ∧
    (s.armed = false → exec .curInit s = .next (State.answer .ok { s with clen := s.rlen, coff := 0 }))

/-- R194, R195, R196, R197, R200: the 2- and 4-byte scalar gets: big-endian, sign- or zero-extended to 64 bits. -/
def Obligations.ShortScalarGets : Prop :=
  ∀ s : State,
    GetsScalar .getI16 2 (fun bs => match bs with | [a, b] => (a ++ b).signExtend 64 | _ => 0) s ∧
    GetsScalar .getU16 2 (fun bs => match bs with | [a, b] => (a ++ b).setWidth 64 | _ => 0) s ∧
    GetsScalar .getI32 4 (fun bs => match bs with | [a, b, c, d] => (a ++ b ++ c ++ d).signExtend 64 | _ => 0) s ∧
    GetsScalar .getU32 4 (fun bs => match bs with | [a, b, c, d] => (a ++ b ++ c ++ d).setWidth 64 | _ => 0) s ∧
    GetsScalar .getF32 4 (fun bs => match bs with | [a, b, c, d] => (a ++ b ++ c ++ d).setWidth 64 | _ => 0) s

/-- R198, R199, R201: the 8-byte scalar gets: big-endian, all 64 bits. -/
def Obligations.LongScalarGets : Prop :=
  ∀ (s : State) (i : Instr), i = .getI64 ∨ i = .getU64 ∨ i = .getF64 →
    GetsScalar i 8
      (fun bs => match bs with
        | [a, b, c, d, e, f, g, h] => (a ++ b ++ c ++ d ++ e ++ f ++ g ++ h)
        | _ => 0) s

/-- R193, R202: GET_BYTES n reads what is there, at most n bytes, byte i of the block at bits 8(n-1-i)+7 .. 8(n-1-i)
of `rdata` and zero elsewhere, on a short read too. BUSY while armed. A word with a count outside 1..8 is rejected (its
answer, ILLEGAL, is in IllegalCommandsChangeNothing). -/
def Obligations.GetBytesPadsTheTail : Prop :=
  (∀ (s : State) (n : Nat), 1 ≤ n → n ≤ 8 →
    (s.armed = true → exec (.getBytes n) s = .next (s.answer .busy)) ∧
    (∀ bs : List Byte, s.armed = false → s.coff.toNat ≤ s.clen.toNat →
      bs.length = min n (s.clen.toNat - s.coff.toNat) → s.coff.toNat + bs.length ≤ s.cfg.rxCap →
      holds s.rbuf s.coff.toNat bs →
      ∃ v : Quad,
        exec (.getBytes n) s = .next (State.answer (if bs.length = n then .ok else .short)
          { s with
            coff := s.coff + BitVec.ofNat 16 bs.length, rcount := BitVec.ofNat 4 bs.length, rdata := v }) ∧
        v.toNat = ((List.range bs.length).map (fun i => (bs.getD i 0).toNat * 2 ^ (8 * (n - 1 - i)))).sum)) ∧
  ∀ (n : Byte) (d : Quad), n = 0 ∨ 8 < n.toNat → decode (.cmd (0x11#8 ++ n) d) = .error .countOutOfRange

/-- R190: every cursor command and GET_ID is BUSY while armed and changes nothing. -/
def Obligations.CursorIsBusyWhileArmed : Prop :=
  ∀ (s : State) (i : Instr), s.armed = true →
    (i = .curInit ∨ (∃ n, i = .getBytes n ∧ wellFormed i = true) ∨ i = .getI16 ∨ i = .getU16 ∨ i = .getI32 ∨
      i = .getU32 ∨ i = .getI64 ∨ i = .getU64 ∨ i = .getF32 ∨ i = .getF64 ∨ i = .getId) →
    exec i s = .next (s.answer .busy)

/-- R40, R191: under the invariant no command or step but CUR_INIT, RX_ARM and RESET moves the offset back or changes
the cursor's length, and the offset never passes the length. -/
def Obligations.CursorIsMonotone : Prop :=
  ∀ (i : Instr) (s t : State), Inv s → exec i s = .next t → i ≠ .curInit → i ≠ .rxArm → i ≠ .reset →
    s.coff.toNat ≤ t.coff.toNat ∧ t.coff.toNat ≤ t.clen.toNat ∧ t.clen = s.clen

/-- R220: GET_ID in its cases: BUSY; no byte; a one-byte identifier; the sub-identifier missing; a two-byte
identifier. -/
def Obligations.GetIdReadsTheEffectiveIdentifier : Prop :=
  ∀ s : State,
    (s.armed = true → exec .getId s = .next (s.answer .busy)) ∧
    (s.armed = false → s.coff = s.clen → exec .getId s = .next (State.answer .short { s with rcount := 0 })) ∧
    (∀ p : Byte, s.armed = false → s.coff ≠ s.clen → s.coff.toNat < s.cfg.rxCap →
      s.rbuf.read s.coff.toNat = some p →
      (s.extMask.getLsbD p.toNat = false →
        exec .getId s = .next (State.answer .ok
          { s with coff := s.coff + 1, rcount := 1, rdata := p.setWidth 64 })) ∧
      (s.extMask.getLsbD p.toNat = true → s.coff + 1 = s.clen →
        exec .getId s = .next (State.answer .short { s with coff := s.coff + 1, rcount := 1 })) ∧
      (∀ q : Byte, s.extMask.getLsbD p.toNat = true → s.coff + 1 ≠ s.clen → (s.coff + 1).toNat < s.cfg.rxCap →
        s.rbuf.read (s.coff + 1).toNat = some q →
        exec .getId s = .next (State.answer .ok
          { s with coff := s.coff + 2, rcount := 2, rdata := (p ++ q).setWidth 64 })))

/-- R221: SET_EXT writes one bit of `ext_mask` and no other, in every state. -/
def Obligations.SetExtWritesOneBit : Prop :=
  ∀ (s : State) (p : Byte) (m : Bool),
    ∃ mask : BitVec 256, exec (.setExt p m) s = .next (State.answer .ok { s with extMask := mask }) ∧
      ∀ q : Byte, mask.getLsbD q.toNat = if q = p then m else s.extMask.getLsbD q.toNat

/-! ### Control, and the block as a whole -/

/-- R260: NOP answers OK and changes nothing. -/
def Obligations.NopChangesNothing : Prop :=
  ∀ s : State, exec .nop s = .next
    { s with ports := { s.ports with responses := s.ports.responses ++ [⟨.ok, s.rdata, s.rcount⟩] } }

/-- R261: RD_STATUS reads the status word, field by field, and changes nothing but `rdata`. -/
def Obligations.StatusWordFields : Prop :=
  ∀ s : State, ∃ v : Quad, exec .rdStatus s = .next (State.answer .ok { s with rdata := v }) ∧
    v.extractLsb' 0 2 = (match s.rxState with | .start => 0 | .awaitId => 1 | .awaitData => 2 | .awaitEsc => 3) ∧
    v.getLsbD 2 = s.armed ∧ v.getLsbD 3 = s.ungetV ∧ v.getLsbD 4 = s.resPending ∧
    v.extractLsb' 5 2 = (match s.resKind with | .none => 0 | .frame => 1 | .tooLong => 2 | .eos => 3) ∧
    v.getLsbD 7 = s.resValid ∧ v.getLsbD 8 = s.resForced ∧ v.getLsbD 9 = s.txBusy ∧ v.getLsbD 10 = s.txOvf ∧
    v.getLsbD 11 = s.txErr ∧ v.extractLsb' 12 4 = 0 ∧ v.extractLsb' 16 16 = s.resLen ∧
    v.extractLsb' 32 16 = s.tlen ∧ v.extractLsb' 48 16 = s.tsum

/-- R262: RD_CURSOR reads the cursor word, field by field, and changes nothing but `rdata`. -/
def Obligations.CursorWordFields : Prop :=
  ∀ s : State, ∃ v : Quad, exec .rdCursor s = .next (State.answer .ok { s with rdata := v }) ∧
    v.extractLsb' 0 16 = s.coff ∧ v.extractLsb' 16 16 = s.clen ∧ v.extractLsb' 32 16 = s.rlen ∧
    v.extractLsb' 48 16 = s.txPtr

/-- R243: RX and TX are independent. What an RX-side command or step does is the same whatever the TX framer state,
which it leaves as it is; and the other way round. -/
def Obligations.RxAndTxAreIndependent : Prop :=
  ∀ (i : Instr) (s u : State),
    (rxSide i = true → exec i (State.withTx u s) = mapNext (State.withTx u) (exec i s)) ∧
    (txSide i = true → exec i (State.withRx u s) = mapNext (State.withRx u) (exec i s))
end

