-- ==== Sys2Proof/Laws/Decode.lean ====
section
/-! SUPPORT. The laws of the fields of a command word and of the operand cut. -/

namespace Sys2Proof

@[simp] theorem opField_mkCmd (op imm : Byte) : opField (mkCmd op imm) = op := by
  apply BitVec.eq_of_toNat_eq
  have h1 := op.isLt
  have h2 := imm.isLt
  simp only [opField, mkCmd, BitVec.extractLsb'_toNat, BitVec.toNat_append, Nat.shiftRight_eq_div_pow]
  rw [Nat.shiftLeft_eq, ← Nat.shiftLeft_eq, ← Nat.shiftLeft_add_eq_or_of_lt h2, Nat.shiftLeft_eq]
  omega

@[simp] theorem immField_mkCmd (op imm : Byte) : immField (mkCmd op imm) = imm := by
  apply BitVec.eq_of_toNat_eq
  have h1 := op.isLt
  have h2 := imm.isLt
  simp only [immField, mkCmd, BitVec.extractLsb'_toNat, BitVec.toNat_append, Nat.shiftRight_zero]
  rw [← Nat.shiftLeft_add_eq_or_of_lt h2, Nat.shiftLeft_eq]
  omega

/-- A command word is its two fields. -/
theorem mkCmd_fields (c : BitVec 16) : mkCmd (opField c) (immField c) = c := by
  apply BitVec.eq_of_toNat_eq
  have h := c.isLt
  have hi := (immField c).isLt
  simp only [mkCmd, BitVec.toNat_append]
  rw [← Nat.shiftLeft_add_eq_or_of_lt hi, Nat.shiftLeft_eq]
  simp only [opField, immField, BitVec.extractLsb'_toNat, Nat.shiftRight_eq_div_pow]
  omega

theorem legalCount_iff (n : Nat) : legalCount n = true ↔ 1 ≤ n ∧ n ≤ 8 := by simp [legalCount]

/-- The cut to n bytes leaves a value of n bytes as it is. -/
theorem lowBytes_of_lt {n : Nat} {v : Quad} (h : v.toNat < 2 ^ (8 * n)) : lowBytes n v = v := by
  apply BitVec.eq_of_toNat_eq
  have := v.isLt
  simp only [lowBytes, BitVec.toNat_ofNat, Nat.mod_eq_of_lt h]
  omega

theorem lowBytes_lt (n : Nat) (v : Quad) : (lowBytes n v).toNat < 2 ^ (8 * n) := by
  have h := Nat.mod_lt v.toNat (Nat.two_pow_pos (8 * n))
  simp only [lowBytes, BitVec.toNat_ofNat]
  exact lt_of_le_of_lt (Nat.mod_le _ _) h

end Sys2Proof
end

