-- ==== Sys2Proof/Laws/State.lean ====
section
/-! SUPPORT. What each named state update does to each field: one lemma per field per update, true by rfl, so that a
proof never unfolds the update. -/

namespace Sys2Proof.Machine

/-! ### answer -/

@[simp] theorem State.answer_cfg (s : State) (st : Status) : (s.answer st).cfg = s.cfg := rfl
@[simp] theorem State.answer_rxState (s : State) (st : Status) : (s.answer st).rxState = s.rxState := rfl
@[simp] theorem State.answer_rbuf (s : State) (st : Status) : (s.answer st).rbuf = s.rbuf := rfl
@[simp] theorem State.answer_rlen (s : State) (st : Status) : (s.answer st).rlen = s.rlen := rfl
@[simp] theorem State.answer_s0 (s : State) (st : Status) : (s.answer st).s0 = s.s0 := rfl
@[simp] theorem State.answer_s1 (s : State) (st : Status) : (s.answer st).s1 = s.s1 := rfl
@[simp] theorem State.answer_s2 (s : State) (st : Status) : (s.answer st).s2 = s.s2 := rfl
@[simp] theorem State.answer_ungetV (s : State) (st : Status) : (s.answer st).ungetV = s.ungetV := rfl
@[simp] theorem State.answer_ungetB (s : State) (st : Status) : (s.answer st).ungetB = s.ungetB := rfl
@[simp] theorem State.answer_armed (s : State) (st : Status) : (s.answer st).armed = s.armed := rfl
@[simp] theorem State.answer_idleCnt (s : State) (st : Status) : (s.answer st).idleCnt = s.idleCnt := rfl
@[simp] theorem State.answer_resPending (s : State) (st : Status) : (s.answer st).resPending = s.resPending := rfl
@[simp] theorem State.answer_resKind (s : State) (st : Status) : (s.answer st).resKind = s.resKind := rfl
@[simp] theorem State.answer_resLen (s : State) (st : Status) : (s.answer st).resLen = s.resLen := rfl
@[simp] theorem State.answer_resValid (s : State) (st : Status) : (s.answer st).resValid = s.resValid := rfl
@[simp] theorem State.answer_resForced (s : State) (st : Status) : (s.answer st).resForced = s.resForced := rfl
@[simp] theorem State.answer_clen (s : State) (st : Status) : (s.answer st).clen = s.clen := rfl
@[simp] theorem State.answer_coff (s : State) (st : Status) : (s.answer st).coff = s.coff := rfl
@[simp] theorem State.answer_extMask (s : State) (st : Status) : (s.answer st).extMask = s.extMask := rfl
@[simp] theorem State.answer_rdata (s : State) (st : Status) : (s.answer st).rdata = s.rdata := rfl
@[simp] theorem State.answer_rcount (s : State) (st : Status) : (s.answer st).rcount = s.rcount := rfl
@[simp] theorem State.answer_tbuf (s : State) (st : Status) : (s.answer st).tbuf = s.tbuf := rfl
@[simp] theorem State.answer_tlen (s : State) (st : Status) : (s.answer st).tlen = s.tlen := rfl
@[simp] theorem State.answer_tsum (s : State) (st : Status) : (s.answer st).tsum = s.tsum := rfl
@[simp] theorem State.answer_txOvf (s : State) (st : Status) : (s.answer st).txOvf = s.txOvf := rfl
@[simp] theorem State.answer_txBusy (s : State) (st : Status) : (s.answer st).txBusy = s.txBusy := rfl
@[simp] theorem State.answer_txPtr (s : State) (st : Status) : (s.answer st).txPtr = s.txPtr := rfl
@[simp] theorem State.answer_txErr (s : State) (st : Status) : (s.answer st).txErr = s.txErr := rfl
@[simp] theorem State.answer_hostQ (s : State) (st : Status) : (s.answer st).ports.hostQ = s.ports.hostQ := rfl
@[simp] theorem State.answer_rxQ (s : State) (st : Status) : (s.answer st).ports.rxQ = s.ports.rxQ := rfl
@[simp] theorem State.answer_auxQ (s : State) (st : Status) : (s.answer st).ports.auxQ = s.ports.auxQ := rfl
@[simp] theorem State.answer_schedule (s : State) (st : Status) : (s.answer st).ports.schedule = s.ports.schedule := rfl
@[simp] theorem State.answer_txOut (s : State) (st : Status) : (s.answer st).ports.txOut = s.ports.txOut := rfl
@[simp] theorem State.answer_auxOut (s : State) (st : Status) : (s.answer st).ports.auxOut = s.ports.auxOut := rfl
@[simp] theorem State.answer_responses (s : State) (st : Status) : (s.answer st).ports.responses = s.ports.responses ++ [⟨st, s.rdata, s.rcount⟩] := rfl

/-! ### emitTx -/

@[simp] theorem State.emitTx_cfg (s : State) (b : Byte) : (s.emitTx b).cfg = s.cfg := rfl
@[simp] theorem State.emitTx_rxState (s : State) (b : Byte) : (s.emitTx b).rxState = s.rxState := rfl
@[simp] theorem State.emitTx_rbuf (s : State) (b : Byte) : (s.emitTx b).rbuf = s.rbuf := rfl
@[simp] theorem State.emitTx_rlen (s : State) (b : Byte) : (s.emitTx b).rlen = s.rlen := rfl
@[simp] theorem State.emitTx_s0 (s : State) (b : Byte) : (s.emitTx b).s0 = s.s0 := rfl
@[simp] theorem State.emitTx_s1 (s : State) (b : Byte) : (s.emitTx b).s1 = s.s1 := rfl
@[simp] theorem State.emitTx_s2 (s : State) (b : Byte) : (s.emitTx b).s2 = s.s2 := rfl
@[simp] theorem State.emitTx_ungetV (s : State) (b : Byte) : (s.emitTx b).ungetV = s.ungetV := rfl
@[simp] theorem State.emitTx_ungetB (s : State) (b : Byte) : (s.emitTx b).ungetB = s.ungetB := rfl
@[simp] theorem State.emitTx_armed (s : State) (b : Byte) : (s.emitTx b).armed = s.armed := rfl
@[simp] theorem State.emitTx_idleCnt (s : State) (b : Byte) : (s.emitTx b).idleCnt = s.idleCnt := rfl
@[simp] theorem State.emitTx_resPending (s : State) (b : Byte) : (s.emitTx b).resPending = s.resPending := rfl
@[simp] theorem State.emitTx_resKind (s : State) (b : Byte) : (s.emitTx b).resKind = s.resKind := rfl
@[simp] theorem State.emitTx_resLen (s : State) (b : Byte) : (s.emitTx b).resLen = s.resLen := rfl
@[simp] theorem State.emitTx_resValid (s : State) (b : Byte) : (s.emitTx b).resValid = s.resValid := rfl
@[simp] theorem State.emitTx_resForced (s : State) (b : Byte) : (s.emitTx b).resForced = s.resForced := rfl
@[simp] theorem State.emitTx_clen (s : State) (b : Byte) : (s.emitTx b).clen = s.clen := rfl
@[simp] theorem State.emitTx_coff (s : State) (b : Byte) : (s.emitTx b).coff = s.coff := rfl
@[simp] theorem State.emitTx_extMask (s : State) (b : Byte) : (s.emitTx b).extMask = s.extMask := rfl
@[simp] theorem State.emitTx_rdata (s : State) (b : Byte) : (s.emitTx b).rdata = s.rdata := rfl
@[simp] theorem State.emitTx_rcount (s : State) (b : Byte) : (s.emitTx b).rcount = s.rcount := rfl
@[simp] theorem State.emitTx_tbuf (s : State) (b : Byte) : (s.emitTx b).tbuf = s.tbuf := rfl
@[simp] theorem State.emitTx_tlen (s : State) (b : Byte) : (s.emitTx b).tlen = s.tlen := rfl
@[simp] theorem State.emitTx_tsum (s : State) (b : Byte) : (s.emitTx b).tsum = s.tsum := rfl
@[simp] theorem State.emitTx_txOvf (s : State) (b : Byte) : (s.emitTx b).txOvf = s.txOvf := rfl
@[simp] theorem State.emitTx_txBusy (s : State) (b : Byte) : (s.emitTx b).txBusy = s.txBusy := rfl
@[simp] theorem State.emitTx_txPtr (s : State) (b : Byte) : (s.emitTx b).txPtr = s.txPtr := rfl
@[simp] theorem State.emitTx_txErr (s : State) (b : Byte) : (s.emitTx b).txErr = s.txErr := rfl
@[simp] theorem State.emitTx_hostQ (s : State) (b : Byte) : (s.emitTx b).ports.hostQ = s.ports.hostQ := rfl
@[simp] theorem State.emitTx_rxQ (s : State) (b : Byte) : (s.emitTx b).ports.rxQ = s.ports.rxQ := rfl
@[simp] theorem State.emitTx_auxQ (s : State) (b : Byte) : (s.emitTx b).ports.auxQ = s.ports.auxQ := rfl
@[simp] theorem State.emitTx_schedule (s : State) (b : Byte) : (s.emitTx b).ports.schedule = s.ports.schedule := rfl
@[simp] theorem State.emitTx_responses (s : State) (b : Byte) : (s.emitTx b).ports.responses = s.ports.responses := rfl
@[simp] theorem State.emitTx_auxOut (s : State) (b : Byte) : (s.emitTx b).ports.auxOut = s.ports.auxOut := rfl
@[simp] theorem State.emitTx_txOut (s : State) (b : Byte) : (s.emitTx b).ports.txOut = s.ports.txOut ++ [b] := rfl

/-! ### emitAux -/

@[simp] theorem State.emitAux_cfg (s : State) (a : Byte) : (s.emitAux a).cfg = s.cfg := rfl
@[simp] theorem State.emitAux_rxState (s : State) (a : Byte) : (s.emitAux a).rxState = s.rxState := rfl
@[simp] theorem State.emitAux_rbuf (s : State) (a : Byte) : (s.emitAux a).rbuf = s.rbuf := rfl
@[simp] theorem State.emitAux_rlen (s : State) (a : Byte) : (s.emitAux a).rlen = s.rlen := rfl
@[simp] theorem State.emitAux_s0 (s : State) (a : Byte) : (s.emitAux a).s0 = s.s0 := rfl
@[simp] theorem State.emitAux_s1 (s : State) (a : Byte) : (s.emitAux a).s1 = s.s1 := rfl
@[simp] theorem State.emitAux_s2 (s : State) (a : Byte) : (s.emitAux a).s2 = s.s2 := rfl
@[simp] theorem State.emitAux_ungetV (s : State) (a : Byte) : (s.emitAux a).ungetV = s.ungetV := rfl
@[simp] theorem State.emitAux_ungetB (s : State) (a : Byte) : (s.emitAux a).ungetB = s.ungetB := rfl
@[simp] theorem State.emitAux_armed (s : State) (a : Byte) : (s.emitAux a).armed = s.armed := rfl
@[simp] theorem State.emitAux_idleCnt (s : State) (a : Byte) : (s.emitAux a).idleCnt = s.idleCnt := rfl
@[simp] theorem State.emitAux_resPending (s : State) (a : Byte) : (s.emitAux a).resPending = s.resPending := rfl
@[simp] theorem State.emitAux_resKind (s : State) (a : Byte) : (s.emitAux a).resKind = s.resKind := rfl
@[simp] theorem State.emitAux_resLen (s : State) (a : Byte) : (s.emitAux a).resLen = s.resLen := rfl
@[simp] theorem State.emitAux_resValid (s : State) (a : Byte) : (s.emitAux a).resValid = s.resValid := rfl
@[simp] theorem State.emitAux_resForced (s : State) (a : Byte) : (s.emitAux a).resForced = s.resForced := rfl
@[simp] theorem State.emitAux_clen (s : State) (a : Byte) : (s.emitAux a).clen = s.clen := rfl
@[simp] theorem State.emitAux_coff (s : State) (a : Byte) : (s.emitAux a).coff = s.coff := rfl
@[simp] theorem State.emitAux_extMask (s : State) (a : Byte) : (s.emitAux a).extMask = s.extMask := rfl
@[simp] theorem State.emitAux_rdata (s : State) (a : Byte) : (s.emitAux a).rdata = s.rdata := rfl
@[simp] theorem State.emitAux_rcount (s : State) (a : Byte) : (s.emitAux a).rcount = s.rcount := rfl
@[simp] theorem State.emitAux_tbuf (s : State) (a : Byte) : (s.emitAux a).tbuf = s.tbuf := rfl
@[simp] theorem State.emitAux_tlen (s : State) (a : Byte) : (s.emitAux a).tlen = s.tlen := rfl
@[simp] theorem State.emitAux_tsum (s : State) (a : Byte) : (s.emitAux a).tsum = s.tsum := rfl
@[simp] theorem State.emitAux_txOvf (s : State) (a : Byte) : (s.emitAux a).txOvf = s.txOvf := rfl
@[simp] theorem State.emitAux_txBusy (s : State) (a : Byte) : (s.emitAux a).txBusy = s.txBusy := rfl
@[simp] theorem State.emitAux_txPtr (s : State) (a : Byte) : (s.emitAux a).txPtr = s.txPtr := rfl
@[simp] theorem State.emitAux_txErr (s : State) (a : Byte) : (s.emitAux a).txErr = s.txErr := rfl
@[simp] theorem State.emitAux_hostQ (s : State) (a : Byte) : (s.emitAux a).ports.hostQ = s.ports.hostQ := rfl
@[simp] theorem State.emitAux_rxQ (s : State) (a : Byte) : (s.emitAux a).ports.rxQ = s.ports.rxQ := rfl
@[simp] theorem State.emitAux_auxQ (s : State) (a : Byte) : (s.emitAux a).ports.auxQ = s.ports.auxQ := rfl
@[simp] theorem State.emitAux_schedule (s : State) (a : Byte) : (s.emitAux a).ports.schedule = s.ports.schedule := rfl
@[simp] theorem State.emitAux_responses (s : State) (a : Byte) : (s.emitAux a).ports.responses = s.ports.responses := rfl
@[simp] theorem State.emitAux_txOut (s : State) (a : Byte) : (s.emitAux a).ports.txOut = s.ports.txOut := rfl
@[simp] theorem State.emitAux_auxOut (s : State) (a : Byte) : (s.emitAux a).ports.auxOut = s.ports.auxOut ++ [a] := rfl

/-! ### setResult -/

@[simp] theorem State.setResult_cfg (s : State) (k : ResKind) (n : Half) (v f : Bool) : (s.setResult k n v f).cfg = s.cfg := rfl
@[simp] theorem State.setResult_rxState (s : State) (k : ResKind) (n : Half) (v f : Bool) : (s.setResult k n v f).rxState = .start := rfl
@[simp] theorem State.setResult_rbuf (s : State) (k : ResKind) (n : Half) (v f : Bool) : (s.setResult k n v f).rbuf = s.rbuf := rfl
@[simp] theorem State.setResult_rlen (s : State) (k : ResKind) (n : Half) (v f : Bool) : (s.setResult k n v f).rlen = s.rlen := rfl
@[simp] theorem State.setResult_s0 (s : State) (k : ResKind) (n : Half) (v f : Bool) : (s.setResult k n v f).s0 = s.s0 := rfl
@[simp] theorem State.setResult_s1 (s : State) (k : ResKind) (n : Half) (v f : Bool) : (s.setResult k n v f).s1 = s.s1 := rfl
@[simp] theorem State.setResult_s2 (s : State) (k : ResKind) (n : Half) (v f : Bool) : (s.setResult k n v f).s2 = s.s2 := rfl
@[simp] theorem State.setResult_ungetV (s : State) (k : ResKind) (n : Half) (v f : Bool) : (s.setResult k n v f).ungetV = s.ungetV := rfl
@[simp] theorem State.setResult_ungetB (s : State) (k : ResKind) (n : Half) (v f : Bool) : (s.setResult k n v f).ungetB = s.ungetB := rfl
@[simp] theorem State.setResult_armed (s : State) (k : ResKind) (n : Half) (v f : Bool) : (s.setResult k n v f).armed = false := rfl
@[simp] theorem State.setResult_idleCnt (s : State) (k : ResKind) (n : Half) (v f : Bool) : (s.setResult k n v f).idleCnt = 0 := rfl
@[simp] theorem State.setResult_resPending (s : State) (k : ResKind) (n : Half) (v f : Bool) : (s.setResult k n v f).resPending = true := rfl
@[simp] theorem State.setResult_resKind (s : State) (k : ResKind) (n : Half) (v f : Bool) : (s.setResult k n v f).resKind = k := rfl
@[simp] theorem State.setResult_resLen (s : State) (k : ResKind) (n : Half) (v f : Bool) : (s.setResult k n v f).resLen = n := rfl
@[simp] theorem State.setResult_resValid (s : State) (k : ResKind) (n : Half) (v f : Bool) : (s.setResult k n v f).resValid = v := rfl
@[simp] theorem State.setResult_resForced (s : State) (k : ResKind) (n : Half) (v f : Bool) : (s.setResult k n v f).resForced = f := rfl
@[simp] theorem State.setResult_clen (s : State) (k : ResKind) (n : Half) (v f : Bool) : (s.setResult k n v f).clen = s.clen := rfl
@[simp] theorem State.setResult_coff (s : State) (k : ResKind) (n : Half) (v f : Bool) : (s.setResult k n v f).coff = s.coff := rfl
@[simp] theorem State.setResult_extMask (s : State) (k : ResKind) (n : Half) (v f : Bool) : (s.setResult k n v f).extMask = s.extMask := rfl
@[simp] theorem State.setResult_rdata (s : State) (k : ResKind) (n : Half) (v f : Bool) : (s.setResult k n v f).rdata = s.rdata := rfl
@[simp] theorem State.setResult_rcount (s : State) (k : ResKind) (n : Half) (v f : Bool) : (s.setResult k n v f).rcount = s.rcount := rfl
@[simp] theorem State.setResult_tbuf (s : State) (k : ResKind) (n : Half) (v f : Bool) : (s.setResult k n v f).tbuf = s.tbuf := rfl
@[simp] theorem State.setResult_tlen (s : State) (k : ResKind) (n : Half) (v f : Bool) : (s.setResult k n v f).tlen = s.tlen := rfl
@[simp] theorem State.setResult_tsum (s : State) (k : ResKind) (n : Half) (v f : Bool) : (s.setResult k n v f).tsum = s.tsum := rfl
@[simp] theorem State.setResult_txOvf (s : State) (k : ResKind) (n : Half) (v f : Bool) : (s.setResult k n v f).txOvf = s.txOvf := rfl
@[simp] theorem State.setResult_txBusy (s : State) (k : ResKind) (n : Half) (v f : Bool) : (s.setResult k n v f).txBusy = s.txBusy := rfl
@[simp] theorem State.setResult_txPtr (s : State) (k : ResKind) (n : Half) (v f : Bool) : (s.setResult k n v f).txPtr = s.txPtr := rfl
@[simp] theorem State.setResult_txErr (s : State) (k : ResKind) (n : Half) (v f : Bool) : (s.setResult k n v f).txErr = s.txErr := rfl
@[simp] theorem State.setResult_ports (s : State) (k : ResKind) (n : Half) (v f : Bool) : (s.setResult k n v f).ports = s.ports := rfl

/-! ### discard -/

@[simp] theorem State.discard_cfg (s : State) : (s.discard).cfg = s.cfg := rfl
@[simp] theorem State.discard_rxState (s : State) : (s.discard).rxState = .start := rfl
@[simp] theorem State.discard_rbuf (s : State) : (s.discard).rbuf = s.rbuf := rfl
@[simp] theorem State.discard_rlen (s : State) : (s.discard).rlen = 0 := rfl
@[simp] theorem State.discard_s0 (s : State) : (s.discard).s0 = s.s0 := rfl
@[simp] theorem State.discard_s1 (s : State) : (s.discard).s1 = s.s1 := rfl
@[simp] theorem State.discard_s2 (s : State) : (s.discard).s2 = s.s2 := rfl
@[simp] theorem State.discard_ungetV (s : State) : (s.discard).ungetV = s.ungetV := rfl
@[simp] theorem State.discard_ungetB (s : State) : (s.discard).ungetB = s.ungetB := rfl
@[simp] theorem State.discard_armed (s : State) : (s.discard).armed = s.armed := rfl
@[simp] theorem State.discard_idleCnt (s : State) : (s.discard).idleCnt = s.idleCnt := rfl
@[simp] theorem State.discard_resPending (s : State) : (s.discard).resPending = s.resPending := rfl
@[simp] theorem State.discard_resKind (s : State) : (s.discard).resKind = s.resKind := rfl
@[simp] theorem State.discard_resLen (s : State) : (s.discard).resLen = s.resLen := rfl
@[simp] theorem State.discard_resValid (s : State) : (s.discard).resValid = s.resValid := rfl
@[simp] theorem State.discard_resForced (s : State) : (s.discard).resForced = s.resForced := rfl
@[simp] theorem State.discard_clen (s : State) : (s.discard).clen = s.clen := rfl
@[simp] theorem State.discard_coff (s : State) : (s.discard).coff = s.coff := rfl
@[simp] theorem State.discard_extMask (s : State) : (s.discard).extMask = s.extMask := rfl
@[simp] theorem State.discard_rdata (s : State) : (s.discard).rdata = s.rdata := rfl
@[simp] theorem State.discard_rcount (s : State) : (s.discard).rcount = s.rcount := rfl
@[simp] theorem State.discard_tbuf (s : State) : (s.discard).tbuf = s.tbuf := rfl
@[simp] theorem State.discard_tlen (s : State) : (s.discard).tlen = s.tlen := rfl
@[simp] theorem State.discard_tsum (s : State) : (s.discard).tsum = s.tsum := rfl
@[simp] theorem State.discard_txOvf (s : State) : (s.discard).txOvf = s.txOvf := rfl
@[simp] theorem State.discard_txBusy (s : State) : (s.discard).txBusy = s.txBusy := rfl
@[simp] theorem State.discard_txPtr (s : State) : (s.discard).txPtr = s.txPtr := rfl
@[simp] theorem State.discard_txErr (s : State) : (s.discard).txErr = s.txErr := rfl
@[simp] theorem State.discard_ports (s : State) : (s.discard).ports = s.ports := rfl

end Sys2Proof.Machine
end

