-- ==== Sys2Proof/Laws/Operands.lean ====
section
/-! SUPPORT. The laws of byte order, stuffing and sums. -/

namespace Sys2Proof.Machine

@[simp] theorem bytesBe_length {w : Nat} (v : BitVec w) (n : Nat) : (bytesBe v n).length = n := by
  induction n with
  | zero => rfl
  | succ n ih => simp [bytesBe, ih]

theorem be_lt (bs : List Byte) : be bs < 2 ^ (8 * bs.length) := by
  induction bs with
  | nil => simp [be]
  | cons b bs ih =>
    have hb : b.toNat ≤ 255 := by have := b.isLt; omega
    have := Nat.mul_le_mul_right (2 ^ (8 * bs.length)) hb
    simp only [be, List.length_cons, Nat.mul_add, Nat.mul_one, Nat.pow_add]
    omega

theorem be_append (as bs : List Byte) : be (as ++ bs) = be as * 2 ^ (8 * bs.length) + be bs := by
  induction as with
  | nil => simp [be]
  | cons a as ih =>
    simp only [List.cons_append, be, ih, List.length_append, Nat.mul_add, Nat.pow_add, Nat.add_mul]
    ring

theorem be_replicate_zero (n : Nat) : be (List.replicate n 0#8) = 0 := by
  induction n with
  | zero => rfl
  | succ n ih => simp [List.replicate_succ, be, ih]

/-- `be` undoes `bytes_be` on the bytes it takes (R13). -/
theorem be_bytesBe {w : Nat} (v : BitVec w) (n : Nat) : be (bytesBe v n) = v.toNat % 2 ^ (8 * n) := by
  induction n with
  | zero => simp [bytesBe, be, Nat.mod_one]
  | succ n ih =>
    simp only [bytesBe, be, bytesBe_length, ih, BitVec.extractLsb'_toNat, Nat.shiftRight_eq_div_pow]
    rw [show 8 * (n + 1) = 8 * n + 8 by ring, Nat.pow_add, Nat.mod_mul]
    ring

@[simp] theorem byteSum_nil : byteSum [] = 0 := rfl

@[simp] theorem byteSum_cons (b : Byte) (bs : List Byte) : byteSum (b :: bs) = zext16 b + byteSum bs := rfl

theorem byteSum_append (as bs : List Byte) : byteSum (as ++ bs) = byteSum as + byteSum bs := by
  induction as with
  | nil => simp
  | cons a as ih => simp [ih, BitVec.add_assoc]

@[simp] theorem stuff_nil : stuff [] = [] := rfl

@[simp] theorem stuff_cons (b : Byte) (bs : List Byte) : stuff (b :: bs) = stuffByte b ++ stuff bs := rfl

theorem stuff_append (as bs : List Byte) : stuff (as ++ bs) = stuff as ++ stuff bs := by
  induction as with
  | nil => rfl
  | cons a as ih => simp [ih]

/-- Each 0x10 costs one byte more on the wire (R161's `need`, R171). -/
theorem stuff_length (p : List Byte) : (stuff p).length = p.length + p.count startMarker := by
  induction p with
  | nil => rfl
  | cons b p ih =>
    simp only [stuff_cons, List.length_append, ih, List.length_cons, List.count_cons, stuffByte]
    split <;> rename_i h <;> simp [h] <;> omega

theorem wireFrame_length (p : List Byte) : (wireFrame p).length = p.length + p.count startMarker + 3 := by
  simp [wireFrame, stuff_length]

theorem extBit_setExtBit (mask : BitVec 256) (p q : Byte) (m : Bool) :
    extBit (setExtBit mask p m) q = if q = p then m else extBit mask q := by
  have hq : q.toNat < 256 := q.isLt
  have hp : p.toNat < 256 := p.isLt
  have key : (1#256 <<< p.toNat).getLsbD q.toNat = decide (q = p) := by
    rw [BitVec.getLsbD_shiftLeft, BitVec.getLsbD_one]
    by_cases h : q = p
    · subst h; simp [hq]
    · have hne : q.toNat ≠ p.toNat := fun e => h (BitVec.eq_of_toNat_eq e)
      simp only [h, decide_false, Bool.and_eq_false_iff, decide_eq_false_iff_not, Bool.not_eq_false']
      by_cases hlt : q.toNat < p.toNat
      · left; right; simpa using hlt
      · right; simp; omega
  unfold extBit setExtBit
  cases m
  · rw [if_neg (by decide), BitVec.getLsbD_and, BitVec.getLsbD_not, key]
    by_cases h : q = p <;> simp [h, hq, hp]
  · rw [if_pos rfl, BitVec.getLsbD_or, key]
    by_cases h : q = p <;> simp [h]

end Sys2Proof.Machine
end

