-- ==== Sys2Proof/Laws/Ops.lean ====
section
/-! SUPPORT. One lemma per shared operation: everything it can do when it answers, and when it does answer. -/

namespace Sys2Proof.Machine

/-! ### Ending a step -/

@[simp] theorem respond_eq (st : Status) (s : State) : respond st s = .next (s.answer st) := rfl

@[simp] theorem finish_ok (s : State) : finish (.ok s) = .next s := rfl

@[simp] theorem finish_error (f : Fault) : finish (.error f) = .fault f := rfl

theorem finish_eq_next {r : Except Fault State} {t : State} : finish r = .next t ↔ r = .ok t := by
  cases r <;> simp [finish]

theorem finish_ne_refused {r : Except Fault State} {x : Refusal} : finish r ≠ .refused x := by
  cases r <;> simp [finish]

/-! ### Buffer accesses -/

theorem readRbuf_eq_ok {s : State} {i : Nat} {b : Byte} :
    readRbuf s i = .ok b ↔ i < s.cfg.rxCap ∧ s.rbuf.read i = some b := by
  unfold readRbuf
  split
  · split <;> simp_all
  · simp_all

theorem readTbuf_eq_ok {s : State} {i : Nat} {b : Byte} :
    readTbuf s i = .ok b ↔ i < s.cfg.txCap ∧ s.tbuf.read i = some b := by
  unfold readTbuf
  split
  · split <;> simp_all
  · simp_all

theorem writeRbuf_eq_ok {i : Nat} {b : Byte} {s t : State} :
    writeRbuf i b s = .ok t ↔ i < s.cfg.rxCap ∧ t = { s with rbuf := s.rbuf.write i b } := by
  unfold writeRbuf
  split <;> simp_all [eq_comm]

theorem holds_nil (m : Memory) (i : Nat) : holds m i [] := by intro j hj; simp at hj

theorem holds_cons {m : Memory} {i : Nat} {b : Byte} {bs : List Byte} :
    holds m i (b :: bs) ↔ m.read i = some b ∧ holds m (i + 1) bs := by
  constructor
  · intro h
    refine ⟨by simpa using h 0 (by simp), fun j hj => ?_⟩
    have := h (j + 1) (by simpa using hj)
    simpa [show i + (j + 1) = i + 1 + j by omega] using this
  · rintro ⟨h0, h1⟩ j hj
    cases j with
    | zero => simpa using h0
    | succ j =>
      have := h1 j (by simpa using hj)
      simpa [show i + (j + 1) = i + 1 + j by omega] using this

theorem holds_append {m : Memory} {i : Nat} {as bs : List Byte} :
    holds m i (as ++ bs) ↔ holds m i as ∧ holds m (i + as.length) bs := by
  induction as generalizing i with
  | nil => simp [holds_nil]
  | cons a as ih =>
    rw [List.cons_append, holds_cons, ih, holds_cons, List.length_cons,
      show i + 1 + as.length = i + (as.length + 1) by omega, and_assoc]

/-- A byte list just written is held where it was written. -/
theorem holds_writeList (m : Memory) (i : Nat) (bs : List Byte) : holds (m.writeList i bs) i bs := by
  intro j hj
  rw [Memory.read_writeList, if_pos (by omega)]
  simp

/-- A write outside a held range leaves it held. -/
theorem holds_writeList_of_disjoint {m : Memory} {i k : Nat} {as bs : List Byte} (h : holds m i as)
    (hd : i + as.length ≤ k ∨ k + bs.length ≤ i) : holds (m.writeList k bs) i as := by
  intro j hj
  rw [Memory.read_writeList, if_neg (by omega)]
  exact h j hj

theorem holds_write_of_ne {m : Memory} {i k : Nat} {as : List Byte} {v : Byte} (h : holds m i as)
    (hd : i + as.length ≤ k ∨ k < i) : holds (m.write k v) i as := by
  intro j hj
  rw [Memory.read_write, if_neg (by omega)]
  exact h j hj

theorem holds_inj {m : Memory} {i : Nat} {as bs : List Byte} (ha : holds m i as) (hb : holds m i bs)
    (hl : as.length = bs.length) : as = bs := by
  refine List.ext_getElem? fun j => ?_
  by_cases hj : j < as.length
  · rw [← ha j hj, hb j (hl ▸ hj)]
  · rw [List.getElem?_eq_none (by omega), List.getElem?_eq_none (by omega)]

/-- Where every index has been written, some byte list is held. -/
theorem exists_holds {m : Memory} {i n : Nat} (h : ∀ j : Nat, i ≤ j → j < i + n → (m.read j).isSome) :
    ∃ bs : List Byte, bs.length = n ∧ holds m i bs := by
  induction n generalizing i with
  | zero => exact ⟨[], rfl, holds_nil m i⟩
  | succ n ih =>
    obtain ⟨b, hb⟩ := Option.isSome_iff_exists.1 (h i (le_refl i) (by omega))
    obtain ⟨bs, hl, hbs⟩ := ih (i := i + 1) (fun j h1 h2 => h j (by omega) (by omega))
    exact ⟨b :: bs, by simp [hl], holds_cons.2 ⟨hb, hbs⟩⟩

theorem readRbufBlock_eq_ok {s : State} {i n : Nat} {bs : List Byte} :
    readRbufBlock s i n = .ok bs ↔ bs.length = n ∧ holds s.rbuf i bs ∧ (n = 0 ∨ i + n ≤ s.cfg.rxCap) := by
  induction n generalizing i bs with
  | zero =>
    simp only [readRbufBlock, Except.ok.injEq, true_or, and_true]
    constructor
    · rintro rfl; exact ⟨rfl, holds_nil _ _⟩
    · rintro ⟨h, -⟩; exact (List.length_eq_zero_iff.1 h).symm
  | succ n ih =>
    simp only [readRbufBlock]
    cases hr : readRbuf s i with
    | error f =>
      simp only [reduceCtorEq, false_iff]
      rintro ⟨hl, hh, hc⟩
      replace hc : i + (n + 1) ≤ s.cfg.rxCap := by simpa using hc
      cases bs with
      | nil => simp at hl
      | cons b bs =>
        have : readRbuf s i = .ok b := readRbuf_eq_ok.2 ⟨by omega, (holds_cons.1 hh).1⟩
        rw [hr] at this; cases this
    | ok b =>
      obtain ⟨hi, hb⟩ := readRbuf_eq_ok.1 hr
      simp only
      cases hn : readRbufBlock s (i + 1) n with
      | error f =>
        simp only [reduceCtorEq, false_iff]
        rintro ⟨hl, hh, hc⟩
        replace hc : i + (n + 1) ≤ s.cfg.rxCap := by simpa using hc
        cases bs with
        | nil => simp at hl
        | cons c bs =>
          have := (ih (i := i + 1) (bs := bs)).2 ⟨by simpa using hl, (holds_cons.1 hh).2, by omega⟩
          rw [hn] at this; cases this
      | ok cs =>
        obtain ⟨hl, hh, hc⟩ := ih.1 hn
        simp only [Except.ok.injEq]
        constructor
        · rintro rfl
          exact ⟨by simp [hl], holds_cons.2 ⟨hb, hh⟩, .inr (by omega)⟩
        · rintro ⟨hl', hh', -⟩
          exact holds_inj (holds_cons.2 ⟨hb, hh⟩) hh' (by simp [hl, hl'])

/-! ### The TX write (R161) -/

/-- Everything tx_write can do. -/
theorem txWrite_cases (v p : List Byte) (acc : Bool) (w : List Byte) (s : State) :
    (s.txBusy = true ∧ txWrite v p acc w s = (.busy, s)) ∨
    (s.txBusy = false ∧ s.txOvf = true ∧ txWrite v p acc w s = (.overflow, s)) ∨
    (s.txBusy = false ∧ s.txOvf = false ∧ s.cfg.txCap < s.tlen.toNat + (txWire v p w).length ∧
      txWrite v p acc w s = (.overflow, { s with txOvf := true })) ∨
    (s.txBusy = false ∧ s.txOvf = false ∧ s.tlen.toNat + (txWire v p w).length ≤ s.cfg.txCap ∧
      txWrite v p acc w s = (.ok,
        { s with
          tbuf := s.tbuf.writeList s.tlen.toNat (txWire v p w)
          tlen := s.tlen + BitVec.ofNat 16 (txWire v p w).length
          tsum := if acc then s.tsum + byteSum p else s.tsum })) := by
  unfold txWrite
  cases s.txBusy <;> cases s.txOvf <;> simp
  exact lt_or_ge _ _

/-! ### The cursor read (R191) -/

/-- What get_raw does when it answers. -/
theorem getRaw_eq_ok {n : Nat} {s t : State} {bs : List Byte} (h : getRaw n s = .ok (bs, t)) :
    bs.length = min n (s.clen.toNat - s.coff.toNat) ∧ holds s.rbuf s.coff.toNat bs ∧
    t = { s with coff := s.coff + BitVec.ofNat 16 bs.length, rcount := BitVec.ofNat 4 bs.length } := by
  unfold getRaw at h
  cases hb : readRbufBlock s s.coff.toNat (min n (s.clen.toNat - s.coff.toNat)) with
  | error f => simp [hb] at h
  | ok cs =>
    obtain ⟨hl, hh, -⟩ := readRbufBlock_eq_ok.1 hb
    simp only [hb, Except.ok.injEq, Prod.mk.injEq] at h
    obtain ⟨rfl, rfl⟩ := h
    exact ⟨hl, hh, by rw [hl]⟩

/-- When get_raw answers: the bytes that are there have been written and lie inside the buffer. -/
theorem getRaw_of_holds {n : Nat} {s : State} {bs : List Byte}
    (hl : bs.length = min n (s.clen.toNat - s.coff.toNat)) (hh : holds s.rbuf s.coff.toNat bs)
    (hc : bs.length = 0 ∨ s.coff.toNat + bs.length ≤ s.cfg.rxCap) :
    getRaw n s =
      .ok (bs, { s with coff := s.coff + BitVec.ofNat 16 bs.length, rcount := BitVec.ofNat 4 bs.length }) := by
  have hb : readRbufBlock s s.coff.toNat bs.length = .ok bs := readRbufBlock_eq_ok.2 ⟨rfl, hh, hc⟩
  simp only [getRaw, ← hl, hb]

/-! ### The deframer (R122 to R133) -/

/-- Everything body_append can do when it answers. -/
theorem bodyAppend_cases {b : Byte} {s : State} {r : Bool × State} (h : bodyAppend b s = .ok r) :
    (s.rlen.toNat = s.cfg.rxCap ∧ r = (false, tooLong s)) ∨
    (s.rlen.toNat < s.cfg.rxCap ∧ r = (true,
      { s with
        rbuf := s.rbuf.write s.rlen.toNat b, rlen := s.rlen + 1
        s0 := s.s1, s1 := s.s2, s2 := s.s2 + zext16 b })) := by
  unfold bodyAppend at h
  split at h
  · next he => exact .inl ⟨he, by simpa using h.symm⟩
  · cases hw : writeRbuf s.rlen.toNat b s with
    | error f => simp [hw] at h
    | ok t =>
      obtain ⟨hlt, rfl⟩ := writeRbuf_eq_ok.1 hw
      exact .inr ⟨hlt, by simpa [hw] using h.symm⟩

theorem bodyAppend_of_lt {b : Byte} {s : State} (h : s.rlen.toNat < s.cfg.rxCap) :
    bodyAppend b s = .ok (true,
      { s with
        rbuf := s.rbuf.write s.rlen.toNat b, rlen := s.rlen + 1
        s0 := s.s1, s1 := s.s2, s2 := s.s2 + zext16 b }) := by
  unfold bodyAppend
  rw [if_neg (by omega), writeRbuf_eq_ok.2 ⟨h, rfl⟩]

theorem bodyAppend_of_full {b : Byte} {s : State} (h : s.rlen.toNat = s.cfg.rxCap) :
    bodyAppend b s = .ok (false, tooLong s) := by simp [bodyAppend, h]

/-- Everything complete can do when it answers. -/
theorem complete_cases {forced : Bool} {s t : State} (h : complete forced s = .ok t) :
    (s.rlen.toNat ≤ 2 ∧ t = s.setResult .frame s.rlen false forced) ∨
    (2 < s.rlen.toNat ∧ ∃ lo hi : Byte,
      s.rbuf.read (s.rlen.toNat - 1) = some lo ∧ s.rbuf.read (s.rlen.toNat - 2) = some hi ∧
      t = s.setResult .frame s.rlen
        (decide (s.s0.extractLsb' 0 8 = lo) && decide (s.s0.extractLsb' 8 8 = hi)) forced) := by
  unfold complete at h
  split at h
  · next hl =>
    cases h1 : readRbuf s (s.rlen.toNat - 1) with
    | error f => simp [h1] at h
    | ok lo =>
      cases h2 : readRbuf s (s.rlen.toNat - 2) with
      | error f => simp [h1, h2] at h
      | ok hi =>
        exact .inr ⟨hl, lo, hi, (readRbuf_eq_ok.1 h1).2, (readRbuf_eq_ok.1 h2).2, by simpa [h1, h2] using h.symm⟩
  · exact .inl ⟨by omega, by simpa using h.symm⟩

/-- complete answers when the payload's bytes have been written and lie inside the buffer. -/
theorem complete_isOk {forced : Bool} {s : State} (hw : ∀ i : Nat, i < s.rlen.toNat → (s.rbuf.read i).isSome)
    (hc : s.rlen.toNat ≤ s.cfg.rxCap) : ∃ t, complete forced s = .ok t := by
  unfold complete
  split
  · next hl =>
    obtain ⟨lo, hlo⟩ := Option.isSome_iff_exists.1 (hw (s.rlen.toNat - 1) (by omega))
    obtain ⟨hi, hhi⟩ := Option.isSome_iff_exists.1 (hw (s.rlen.toNat - 2) (by omega))
    rw [readRbuf_eq_ok.2 ⟨by omega, hlo⟩, readRbuf_eq_ok.2 ⟨by omega, hhi⟩]
    exact ⟨_, rfl⟩
  · exact ⟨_, rfl⟩

/-- Everything one byte through the state machine can do when it answers. -/
theorem deframe_cases {b : Byte} {s t : State} (h : deframe b s = .ok t) :
    (s.rxState = .start ∧ b = startMarker ∧ t = { s with rxState := .awaitId }) ∨
    (s.rxState = .start ∧ b ≠ startMarker ∧ t = s) ∨
    (s.rxState = .awaitId ∧ b = startMarker ∧ t = s) ∨
    (s.rxState = .awaitId ∧ b = terminator ∧ t = { s with rxState := .start }) ∨
    (s.rxState = .awaitId ∧ b ≠ startMarker ∧ b ≠ terminator ∧ 0 < s.cfg.rxCap ∧
      t = { s with rbuf := s.rbuf.write 0 b, rlen := 1, s2 := zext16 b, resValid := false, rxState := .awaitData }) ∨
    (s.rxState = .awaitData ∧ b = startMarker ∧ t = { s with rxState := .awaitEsc }) ∨
    ((s.rxState = .awaitData ∧ b ≠ startMarker ∨ s.rxState = .awaitEsc ∧ b = startMarker) ∧
      s.rlen.toNat < s.cfg.rxCap ∧
      t = { s with
            rbuf := s.rbuf.write s.rlen.toNat b, rlen := s.rlen + 1
            s0 := s.s1, s1 := s.s2, s2 := s.s2 + zext16 b, rxState := .awaitData }) ∨
    ((s.rxState = .awaitData ∧ b ≠ startMarker ∨ s.rxState = .awaitEsc ∧ b = startMarker) ∧
      s.rlen.toNat = s.cfg.rxCap ∧ t = tooLong s) ∨
    (s.rxState = .awaitEsc ∧ b = terminator ∧ complete false s = .ok t) ∨
    (s.rxState = .awaitEsc ∧ b ≠ startMarker ∧ b ≠ terminator ∧ t = violation b s) := by
  have hne : terminator ≠ startMarker := by decide
  unfold deframe at h
  cases hs : s.rxState <;> simp only [hs] at h
  · split at h <;> simp_all
  · split at h
    · simp_all
    · split at h
      · simp_all
      · unfold beginFrame at h
        cases hw : writeRbuf 0 b s with
        | error f => simp [hw] at h
        | ok u =>
          obtain ⟨hc, rfl⟩ := writeRbuf_eq_ok.1 hw
          simp only [hw, Except.ok.injEq] at h
          simp_all
  · split at h
    · simp_all
    · cases ha : bodyAppend b s with
      | error f => simp [ha] at h
      | ok r =>
        simp only [ha, Except.ok.injEq] at h
        rcases bodyAppend_cases ha with ⟨hf, rfl⟩ | ⟨hlt, rfl⟩
        · simp_all
        · subst h; simp_all
  · split at h
    · cases ha : bodyAppend startMarker s with
      | error f => simp [ha] at h
      | ok r =>
        rcases bodyAppend_cases ha with ⟨hf, rfl⟩ | ⟨hlt, rfl⟩
        · simp only [ha, Except.ok.injEq] at h; simp_all
        · simp only [ha, Except.ok.injEq] at h; simp_all
    · split at h <;> simp_all

end Sys2Proof.Machine
end

