-- ==== Sys2Proof/Laws/Exec.lean ====
section
/-! SUPPORT. What an instruction can do, said once (exec_effect): the shapes of its next state, which later proofs cite
instead of unfolding exec; what a byte through the deframer leaves alone; and sequences of instructions. -/

namespace Sys2Proof.Machine

/-- Everything but the RX, result and idle state is the same. -/
structure RxOnly (s t : State) : Prop where
  cfg : t.cfg = s.cfg
  ports : t.ports = s.ports
  ext : t.extMask = s.extMask
  rdata : t.rdata = s.rdata
  rcount : t.rcount = s.rcount
  clen : t.clen = s.clen
  coff : t.coff = s.coff
  tbuf : t.tbuf = s.tbuf
  tlen : t.tlen = s.tlen
  tsum : t.tsum = s.tsum
  txOvf : t.txOvf = s.txOvf
  txBusy : t.txBusy = s.txBusy
  txPtr : t.txPtr = s.txPtr
  txErr : t.txErr = s.txErr

/-- A completion touches RX and result state only. -/
theorem complete_rxOnly {f s t} (h : complete f s = .ok t) : RxOnly s t := by
  rcases complete_cases h with ⟨-, rfl⟩ | ⟨-, lo, hi, -, -, rfl⟩ <;> constructor <;> rfl

/-- A byte through the deframer touches RX and result state only. -/
theorem deframe_rxOnly {b s t} (h : deframe b s = .ok t) : RxOnly s t := by
  rcases deframe_cases h with ⟨_, _, rfl⟩ | ⟨_, _, rfl⟩ | ⟨_, _, rfl⟩ | ⟨_, _, rfl⟩ | ⟨_, _, _, _, rfl⟩ | ⟨_, _, rfl⟩ |
    ⟨_, _, rfl⟩ | ⟨_, _, rfl⟩ | ⟨_, _, hc⟩ | ⟨_, _, _, rfl⟩
  all_goals first | exact complete_rxOnly hc | (constructor <;> rfl)

/-- Everything a scalar get can do when it answers. -/
theorem getScalar_cases {n : Nat} {f} {s t : State} (h : getScalar n f s = .next t) :
   (s.armed = true ∧ t = s.answer .busy) ∨
   (s.armed = false ∧ ∃ (k : Nat) (d : Quad) (st : Status), k = min n (s.clen.toNat - s.coff.toNat) ∧
     t = State.answer st { s with coff := s.coff + BitVec.ofNat 16 k, rcount := BitVec.ofNat 4 k, rdata := d }) := by
  unfold Machine.getScalar at h
  by_cases ha : s.armed = true
  · rw [if_pos ha] at h; simp at h; exact .inl ⟨ha, h.symm⟩
  · rw [if_neg ha] at h
    simp only [Bool.not_eq_true] at ha
    refine .inr ⟨ha, ?_⟩
    cases hr : Machine.getRaw n s with
    | error e => simp [hr] at h
    | ok r =>
      obtain ⟨bs, u⟩ := r
      obtain ⟨hl, -, rfl⟩ := getRaw_eq_ok hr
      simp only [hr] at h
      split at h <;> simp only [respond_eq, Host.Outcome.next.injEq] at h
      · exact ⟨_, s.rdata, _, hl, h.symm⟩
      · exact ⟨_, _, _, hl, h.symm⟩

/-- Everything GET_BYTES can do when it answers. -/
theorem execGetBytes_cases {n : Nat} {s t : State} (h : execGetBytes n s = .next t) :
   (t = s.answer .illegal) ∨ (s.armed = true ∧ t = s.answer .busy) ∨
   (s.armed = false ∧ ∃ (k : Nat) (d : Quad) (st : Status), k = min n (s.clen.toNat - s.coff.toNat) ∧
     t = State.answer st { s with coff := s.coff + BitVec.ofNat 16 k, rcount := BitVec.ofNat 4 k, rdata := d }) := by
  unfold execGetBytes at h
  split at h
  · by_cases ha : s.armed = true
    · rw [if_pos ha] at h; simp at h; exact .inr (.inl ⟨ha, h.symm⟩)
    · rw [if_neg ha] at h
      simp only [Bool.not_eq_true] at ha
      refine .inr (.inr ⟨ha, ?_⟩)
      cases hr : Machine.getRaw n s with
      | error e => simp [hr] at h
      | ok r =>
        obtain ⟨bs, u⟩ := r
        obtain ⟨hl, -, rfl⟩ := getRaw_eq_ok hr
        simp only [hr, respond_eq, Host.Outcome.next.injEq] at h
        exact ⟨_, _, _, hl, h.symm⟩
  · simp at h; exact .inl h.symm

/-- Everything a TX command that is one tx_write can do. -/
theorem txCmd_cases {v p : List Byte} {acc : Bool} {w : List Byte} {s t : State} (he : txCmd v p acc w s = .next t) :
   (t = s.answer .busy) ∨ (t = s.answer .overflow) ∨ (s.txBusy = false ∧ t = State.answer .overflow {s with txOvf := true}) ∨
   (s.txBusy = false ∧ ∃ m l u, t = State.answer .ok {s with tbuf := m, tlen := l, tsum := u}) := by
  simp only [Machine.txCmd, respond_eq, Host.Outcome.next.injEq] at he
  rcases txWrite_cases v p acc w s with ⟨_, e⟩ | ⟨_, _, e⟩ | ⟨hb, ho, _, e⟩ | ⟨hb, ho, hl, e⟩ <;> rw [e] at he
  · exact .inl he.symm
  · exact .inr (.inl he.symm)
  · exact .inr (.inr (.inl ⟨hb, he.symm⟩))
  · exact .inr (.inr (.inr ⟨hb, _, _, _, he.symm⟩))

/-- The commands that read through the cursor. -/
def readsCursor : Instr → Bool
  | .getBytes _ | .getI16 | .getU16 | .getI32 | .getU32 | .getI64 | .getU64 | .getF32 | .getF64 | .getId => true
  | _ => false

/-- The commands that build the TX frame or start its send. -/
def buildsFrame : Instr → Bool
  | .txOpen | .txPut8 _ | .txPut16 _ | .txPut32 _ | .txPut64 _ | .txPutN _ _ | .txChecksum | .txClose => true
  | .txCommand _ | .txSend => true
  | _ => false

/-- The next states an instruction can have, by shape: which elements it may write, and under what handshake. -/
inductive Effect (s : State) : Instr → State → Prop
  /-- a stimulus that is not enabled, or changes nothing -/
  | stays {i : Instr} (h : (encode i).line ≠ .host) (hr : i ≠ .reset) : Effect s i s
  /-- a command that only answers -/
  | answers {i : Instr} (st : Status) (h : (encode i).line = .host) : Effect s i (s.answer st)
  | arm (ha : s.armed = false) : Effect s .rxArm (State.answer .ok
      { s with
        armed := true
        resPending := false, resKind := .none, resLen := 0, resValid := false, resForced := false
        clen := 0, coff := 0, idleCnt := 0 })
  | setExt (p : Byte) (m : Bool) (mask : BitVec 256) :
      Effect s (.setExt p m) (State.answer .ok { s with extMask := mask })
  | readReg {i : Instr} (h : i = .rdStatus ∨ i = .rdCursor) (d : Quad) :
      Effect s i (State.answer .ok { s with rdata := d })
  | curInit (ha : s.armed = false) : Effect s .curInit (State.answer .ok { s with clen := s.rlen, coff := 0 })
  | get {i : Instr} (h : readsCursor i = true) (ha : s.armed = false) (k : Nat) (d : Quad) (n : BitVec 4) (st : Status)
      (hk : s.coff.toNat ≤ s.clen.toNat → k ≤ s.clen.toNat - s.coff.toNat) :
      Effect s i (State.answer st { s with coff := s.coff + BitVec.ofNat 16 k, rdata := d, rcount := n })
  | build {i : Instr} (h : buildsFrame i = true) (hb : s.txBusy = false) (m : Memory) (l u : Half) (o e b : Bool)
      (p : Half) (st : Status) :
      Effect s i (State.answer st
        { s with tbuf := m, tlen := l, tsum := u, txOvf := o, txErr := e, txPtr := p, txBusy := b })
  | byte {b : Byte} {t : State} (hr : rxReady s = true) (h : deframe b { s with idleCnt := 0 } = .ok t) :
      Effect s (.rxByte b) t
  | eos (hr : rxReady s = true) : Effect s .rxEos (s.discard.setResult .eos 0 false false)
  | aux (a : Byte) (ha : s.armed = true) : Effect s (.auxByte a) { s.emitAux a with idleCnt := 0 }
  | count (ha : s.armed = true) (k : Half) : Effect s .tick { s with idleCnt := k }
  | force {t : State} (ha : s.armed = true) (hf : inFrame s) (hl : s.cfg.idleLimit ≤ s.idleCnt.toNat + 1)
      (h : complete true { s with idleCnt := 0 } = .ok t) : Effect s .tick t
  | accept (hb : s.txBusy = true) (b : Byte) (p : Half) (u : Bool) :
      Effect s .txAccept { s.emitTx b with txPtr := p, txBusy := u }
  | fail (hb : s.txBusy = true) : Effect s .txFail { s with txBusy := false, txErr := true }
  | replay {t : State} (hv : s.ungetV = true) (h : deframe s.ungetB { s with ungetV := false } = .ok t) :
      Effect s .replay t
  | reset : Effect s .reset (State.resetOf s.cfg s.ports)

theorem effect_of_get {i : Instr} (h : readsCursor i = true) (hh : (encode i).line = .host) {n : Nat} {s t : State}
    (he : (t = s.answer .illegal) ∨ (s.armed = true ∧ t = s.answer .busy) ∨ (s.armed = false ∧ ∃ (k : Nat) (d : Quad) (st : Status), k = min n (s.clen.toNat - s.coff.toNat) ∧
     t = State.answer st { s with coff := s.coff + BitVec.ofNat 16 k, rcount := BitVec.ofNat 4 k, rdata := d })) : Effect s i t := by
  rcases he with rfl | ⟨_, rfl⟩ | ⟨ha, k, d, st, hk, rfl⟩
  · exact .answers _ hh
  · exact .answers _ hh
  · exact .get h ha k d (BitVec.ofNat 4 k) st (by omega)

theorem effect_of_txCmd {i : Instr} (h : buildsFrame i = true) (hh : (encode i).line = .host) {v p w : List Byte}
    {acc : Bool} {s t : State} (he : txCmd v p acc w s = .next t) : Effect s i t := by
  rcases txCmd_cases he with rfl | rfl | ⟨hb, rfl⟩ | ⟨hb, m, l, u, rfl⟩
  · exact .answers _ hh
  · exact .answers _ hh
  · exact .build h hb s.tbuf s.tlen s.tsum true s.txErr s.txBusy s.txPtr .overflow
  · exact .build h hb m l u s.txOvf s.txErr s.txBusy s.txPtr .ok

/-- Everything an instruction can do when it answers a next state. -/
theorem exec_effect {i : Instr} {s t : State} (he : exec i s = .next t) : Effect s i t := by
  cases i <;> simp only [exec] at he
  case nop => simp [execNop] at he; exact he ▸ .answers _ rfl
  case rxArm =>
    unfold execRxArm at he
    split at he <;> simp at he <;> subst he
    · exact .answers _ rfl
    · next ha => exact .arm (by simpa using ha)
  case rdStatus => simp [execRdStatus] at he; subst he; exact .readReg (.inl rfl) _
  case rdCursor => simp [execRdCursor] at he; subst he; exact .readReg (.inr rfl) _
  case setExt => simp [execSetExt] at he; subst he; exact .setExt _ _ _
  case curInit =>
    unfold execCurInit at he
    split at he <;> simp at he <;> subst he
    · exact .answers _ rfl
    · next ha => exact .curInit (by simpa using ha)
  case getBytes n => exact effect_of_get rfl rfl (execGetBytes_cases he)
  case getI16 => exact effect_of_get rfl rfl (.inr (getScalar_cases he))
  case getU16 => exact effect_of_get rfl rfl (.inr (getScalar_cases he))
  case getI32 => exact effect_of_get rfl rfl (.inr (getScalar_cases he))
  case getU32 => exact effect_of_get rfl rfl (.inr (getScalar_cases he))
  case getI64 => exact effect_of_get rfl rfl (.inr (getScalar_cases he))
  case getU64 => exact effect_of_get rfl rfl (.inr (getScalar_cases he))
  case getF32 => exact effect_of_get rfl rfl (.inr (getScalar_cases he))
  case getF64 => exact effect_of_get rfl rfl (.inr (getScalar_cases he))
  case getId =>
    unfold execGetId at he
    by_cases ha : s.armed = true
    · rw [if_pos ha] at he; simp at he; exact he ▸ .answers _ rfl
    · rw [if_neg ha] at he
      simp only [Bool.not_eq_true] at ha
      by_cases hc : s.coff = s.clen
      · rw [if_pos hc] at he; simp only [respond_eq, Host.Outcome.next.injEq] at he; subst he
        have := @Effect.get s .getId rfl ha 0 s.rdata 0 .short (by omega)
        simpa using this
      · rw [if_neg hc] at he
        have hne : s.coff.toNat ≠ s.clen.toNat := fun e => hc (BitVec.eq_of_toNat_eq e)
        cases hp : readRbuf s s.coff.toNat with
        | error e => simp [hp] at he
        | ok p =>
          simp only [hp] at he
          split at he
          · split at he
            · simp only [respond_eq, Host.Outcome.next.injEq] at he; subst he
              exact @Effect.get s .getId rfl ha 1 s.rdata 1 .short (by omega)
            · next hne2 =>
              have hne' : (s.coff + 1).toNat ≠ s.clen.toNat := fun e => hne2 (BitVec.eq_of_toNat_eq e)
              split at he
              · cases he
              · simp only [respond_eq, Host.Outcome.next.injEq] at he; subst he
                have := fun d => @Effect.get s .getId rfl ha 2 d 2 .ok (by have := s.clen.isLt; rw [BitVec.toNat_add] at hne'; simp at hne'; omega)
                have e2 : s.coff + 1 + 1 = s.coff + BitVec.ofNat 16 2 := by rw [BitVec.add_assoc]; rfl
                rw [e2]; exact this _
          · simp only [respond_eq, Host.Outcome.next.injEq] at he; subst he
            exact @Effect.get s .getId rfl ha 1 _ 1 .ok (by omega)
  case txOpen =>
    unfold execTxOpen at he
    split at he <;> simp at he <;> subst he
    · exact .answers _ rfl
    · next hb => exact .build (i := .txOpen) rfl (by simpa using hb) s.tbuf 0 0 false false s.txBusy s.txPtr .ok
  case txPut8 => exact effect_of_txCmd rfl rfl he
  case txPut16 => exact effect_of_txCmd rfl rfl he
  case txPut32 => exact effect_of_txCmd rfl rfl he
  case txPut64 => exact effect_of_txCmd rfl rfl he
  case txPutN n v =>
    unfold execTxPutN at he
    split at he
    · exact effect_of_txCmd rfl rfl he
    · simp at he; exact he ▸ .answers _ rfl
  case txChecksum => exact effect_of_txCmd rfl rfl he
  case txClose => exact effect_of_txCmd rfl rfl he
  case txCommand => exact effect_of_txCmd rfl rfl he
  case txSend =>
    unfold execTxSend at he
    split at he
    · simp at he; exact he ▸ .answers _ rfl
    · split at he
      · simp at he; exact he ▸ .answers _ rfl
      · next hb ho =>
        simp only [respond_eq, Host.Outcome.next.injEq] at he; subst he
        exact .build (i := .txSend) rfl (by simpa using hb) s.tbuf s.tlen s.tsum s.txOvf false _ 0 .ok
  case rxByte b =>
    unfold execRxByte at he
    split at he
    · next hr => exact .byte hr (finish_eq_next.1 he)
    · simp at he; exact he ▸ .stays (by decide +revert) (by simp)
  case rxEos =>
    unfold execRxEos at he
    split at he
    · next hr => simp at he; exact he ▸ .eos hr
    · simp at he; exact he ▸ .stays (by simp [encode, Stim.line]) (by simp)
  case auxByte a =>
    unfold execAuxByte at he
    split at he
    · next hr => simp only [Host.Outcome.next.injEq] at he; exact he ▸ .aux a hr
    · simp at he; exact he ▸ .stays (by simp [encode, Stim.line]) (by simp)
  case tick =>
    unfold execTick at he
    split at he
    · next ha =>
      split at he
      · simp at he; exact he ▸ .count ha _
      · next hl =>
        cases hs : s.rxState <;> simp only [hs] at he
        · simp only [Host.Outcome.next.injEq] at he; rw [← he]; have := Effect.count ha 0; simpa [hs] using this
        · simp only [Host.Outcome.next.injEq] at he; rw [← he]; have := Effect.count ha 0; simpa [hs] using this
        · exact .force ha (.inl hs) (by omega) (by simpa [hs] using finish_eq_next.1 he)
        · exact .force ha (.inr hs) (by omega) (by simpa [hs] using finish_eq_next.1 he)
    · simp at he; exact he ▸ .stays (by simp [encode, Stim.line]) (by simp)
  case txAccept =>
    unfold execTxAccept at he
    split at he
    · next hb =>
      split at he
      · cases he
      · simp only [Host.Outcome.next.injEq] at he; exact he ▸ .accept hb _ _ _
    · simp at he; exact he ▸ .stays (by simp [encode, Stim.line]) (by simp)
  case txFail =>
    unfold execTxFail at he
    split at he
    · next hb => simp only [Host.Outcome.next.injEq] at he; exact he ▸ .fail hb
    · simp at he; exact he ▸ .stays (by simp [encode, Stim.line]) (by simp)
  case replay =>
    unfold execReplay at he
    split at he
    · next hb => exact .replay hb (finish_eq_next.1 he)
    · simp at he; exact he ▸ .stays (by simp [encode, Stim.line]) (by simp)
  case reset => simp [execReset] at he; subst he; exact .reset

theorem execAll_append {as bs : List Instr} {s t : State} (h : execAll as s = .next t) :
    execAll (as ++ bs) s = execAll bs t := by
  induction as generalizing s with
  | nil => simp [execAll] at h; subst h; rfl
  | cons a as ih =>
    simp only [List.cons_append, execAll] at h ⊢
    cases ha : exec a s with
    | next u => simp only [ha] at h ⊢; exact ih h
    | fault f => simp [ha] at h
    | refused f => simp [ha] at h

end Sys2Proof.Machine
end

