-- ==== Sys2Proof/Laws/PerInstr.lean ====
section
/-! SUPPORT. Statements made per instruction. EncodeMatchesRow: the encoder puts every well-formed instruction on the
port of its row of spec/opcode_table.json, in a word that agrees with the row's match under the row's mask. -/

namespace Sys2Proof.Laws

/-- A row of spec/opcode_table.json: its format (as the line it arrives on), match and mask. -/
structure Row where
  line : Line
  pattern : Nat
  mask : Nat
deriving DecidableEq, Repr

/-- The row of each instruction, copied from spec/opcode_table.json. -/
def rowOf : Instr → Row
  | .nop => ⟨.host, 0x0000, 0xFFFF⟩
  | .rxArm => ⟨.host, 0x0100, 0xFFFF⟩
  | .rdStatus => ⟨.host, 0x0200, 0xFFFF⟩
  | .rdCursor => ⟨.host, 0x0300, 0xFFFF⟩
  | .setExt _ _ => ⟨.host, 0x0400, 0xFF00⟩
  | .curInit => ⟨.host, 0x1000, 0xFFFF⟩
  | .getBytes _ => ⟨.host, 0x1100, 0xFF00⟩
  | .getI16 => ⟨.host, 0x1200, 0xFFFF⟩
  | .getU16 => ⟨.host, 0x1300, 0xFFFF⟩
  | .getI32 => ⟨.host, 0x1400, 0xFFFF⟩
  | .getU32 => ⟨.host, 0x1500, 0xFFFF⟩
  | .getI64 => ⟨.host, 0x1600, 0xFFFF⟩
  | .getU64 => ⟨.host, 0x1700, 0xFFFF⟩
  | .getF32 => ⟨.host, 0x1800, 0xFFFF⟩
  | .getF64 => ⟨.host, 0x1900, 0xFFFF⟩
  | .getId => ⟨.host, 0x1A00, 0xFFFF⟩
  | .txOpen => ⟨.host, 0x2000, 0xFFFF⟩
  | .txPut8 _ => ⟨.host, 0x2100, 0xFF00⟩
  | .txPut16 _ => ⟨.host, 0x2200, 0xFFFF⟩
  | .txPut32 _ => ⟨.host, 0x2300, 0xFFFF⟩
  | .txPut64 _ => ⟨.host, 0x2400, 0xFFFF⟩
  | .txPutN _ _ => ⟨.host, 0x2500, 0xFF00⟩
  | .txChecksum => ⟨.host, 0x2600, 0xFFFF⟩
  | .txClose => ⟨.host, 0x2700, 0xFFFF⟩
  | .txCommand _ => ⟨.host, 0x2800, 0xFFFF⟩
  | .txSend => ⟨.host, 0x2900, 0xFFFF⟩
  | .rxByte _ => ⟨.rx, 0x000, 0x100⟩
  | .rxEos => ⟨.rx, 0x100, 0x100⟩
  | .auxByte _ => ⟨.aux, 0x00, 0x00⟩
  | .tick => ⟨.strobe .tick, 0x1, 0x1⟩
  | .txAccept => ⟨.strobe .txReady, 0x1, 0x1⟩
  | .txFail => ⟨.strobe .txFail, 0x1, 0x1⟩
  | .replay => ⟨.strobe .replay, 0x1, 0x1⟩
  | .reset => ⟨.strobe .rst, 0x1, 0x1⟩

/-- The word whose bits the table numbers (the data word of a command is no part of it). -/
def tableBits : Stim → Nat
  | .cmd c _ => c.toNat
  | .rx t => t.toNat
  | .aux a => a.toNat
  | .strobe _ level => level.toNat

/-- The encoder agrees with the instruction's row. -/
def EncodeMatchesRow.Statement (i : Instr) : Prop :=
  wellFormed i = true →
    (encode i).line = (rowOf i).line ∧ tableBits (encode i) &&& (rowOf i).mask = (rowOf i).pattern

namespace EncodeMatchesRow

theorem nop : Statement .nop := fun _ => by decide
theorem rxArm : Statement .rxArm := fun _ => by decide
theorem rdStatus : Statement .rdStatus := fun _ => by decide
theorem rdCursor : Statement .rdCursor := fun _ => by decide
theorem setExt (p : Byte) (m : Bool) : Statement (.setExt p m) := fun _ => ⟨rfl, by cases m <;> revert p <;> decide⟩
theorem curInit : Statement .curInit := fun _ => by decide
theorem getBytes (n : Nat) : Statement (.getBytes n) := fun h => by
  obtain ⟨h1, h8⟩ := (legalCount_iff n).1 h
  interval_cases n <;> decide
theorem getI16 : Statement .getI16 := fun _ => by decide
theorem getU16 : Statement .getU16 := fun _ => by decide
theorem getI32 : Statement .getI32 := fun _ => by decide
theorem getU32 : Statement .getU32 := fun _ => by decide
theorem getI64 : Statement .getI64 := fun _ => by decide
theorem getU64 : Statement .getU64 := fun _ => by decide
theorem getF32 : Statement .getF32 := fun _ => by decide
theorem getF64 : Statement .getF64 := fun _ => by decide
theorem getId : Statement .getId := fun _ => by decide
theorem txOpen : Statement .txOpen := fun _ => by decide
theorem txPut8 (b : Byte) : Statement (.txPut8 b) := fun _ => ⟨rfl, by revert b; decide⟩
theorem txPut16 (v : BitVec 16) : Statement (.txPut16 v) := fun _ => ⟨rfl, by show (mkCmd 0x22 0).toNat &&& 0xFFFF = 0x2200; decide⟩
theorem txPut32 (v : BitVec 32) : Statement (.txPut32 v) := fun _ => ⟨rfl, by show (mkCmd 0x23 0).toNat &&& 0xFFFF = 0x2300; decide⟩
theorem txPut64 (v : BitVec 64) : Statement (.txPut64 v) := fun _ => ⟨rfl, by show (mkCmd 0x24 0).toNat &&& 0xFFFF = 0x2400; decide⟩
theorem txPutN (n : Nat) (v : BitVec 64) : Statement (.txPutN n v) := fun h => by
  obtain ⟨h1, h8⟩ := (legalCount_iff n).1 ((Bool.and_eq_true_iff).1 h).1
  refine ⟨rfl, ?_⟩
  show (mkCmd 0x25 (BitVec.ofNat 8 n)).toNat &&& 0xFF00 = 0x2500
  clear h
  interval_cases n <;> decide
theorem txChecksum : Statement .txChecksum := fun _ => by decide
theorem txClose : Statement .txClose := fun _ => by decide
theorem txCommand (id : BitVec 16) : Statement (.txCommand id) := fun _ =>
  ⟨rfl, by show (mkCmd 0x28 0).toNat &&& 0xFFFF = 0x2800; decide⟩
theorem txSend : Statement .txSend := fun _ => by decide
theorem rxByte (b : Byte) : Statement (.rxByte b) := fun _ => ⟨rfl, by revert b; decide⟩
theorem rxEos : Statement .rxEos := fun _ => by decide
theorem auxByte (a : Byte) : Statement (.auxByte a) := fun _ => ⟨rfl, Nat.and_zero _⟩
theorem tick : Statement .tick := fun _ => by decide
theorem txAccept : Statement .txAccept := fun _ => by decide
theorem txFail : Statement .txFail := fun _ => by decide
theorem replay : Statement .replay := fun _ => by decide
theorem reset : Statement .reset := fun _ => by decide

end EncodeMatchesRow

end Sys2Proof.Laws
end

