-- ==== Sys2Proof/Laws/Step.lean ====
section
/-! SUPPORT. What a step can do, said once: the handshakes, and the three ways a step answers a next state; and runs of
several steps. -/

namespace Sys2Proof.Machine

@[simp] theorem upcoming_nil {α : Type} (loop : List α) : upcoming [] loop = loop := rfl
@[simp] theorem upcoming_cons {α : Type} (x : α) (q loop : List α) : upcoming (x :: q) loop = x :: q := rfl

/-- How the sources' side of the ports moves in a handshake: the output streams and the loops stay, and the RX source
loses at most its first token, and only while `rx_ready` and to the RX line. -/
structure PortsMoved (s : State) (q : Ports) : Prop where
  responses : q.responses = s.ports.responses
  txOut : q.txOut = s.ports.txOut
  auxOut : q.auxOut = s.ports.auxOut
  rxLoop : q.rxLoop = s.ports.rxLoop
  rxQ : q.rxQ = s.ports.rxQ ∨
    (rxReady s = true ∧ ∃ ls, upcoming s.ports.schedule s.ports.scheduleLoop = .rx :: ls) ∧
      ∃ tok, upcoming s.ports.rxQ s.ports.rxLoop = tok :: q.rxQ

/-- Everything fetch can do. -/
theorem fetch_cases (s : State) :
    ∃ q : Ports, PortsMoved s q ∧
      (fetch s = (none, { s with ports := q }) ∨ ∃ w, fetch s = (some w, { s with ports := q })) := by
  unfold fetch
  split
  · exact ⟨s.ports, ⟨rfl, rfl, rfl, rfl, .inl rfl⟩, .inr ⟨_, rfl⟩⟩
  · cases hs : upcoming s.ports.schedule s.ports.scheduleLoop with
    | nil => exact ⟨s.ports, ⟨rfl, rfl, rfl, rfl, .inl rfl⟩, .inl rfl⟩
    | cons l ls =>
      cases hp : presented s.ports l with
      | none => exact ⟨{ s.ports with schedule := ls }, ⟨rfl, rfl, rfl, rfl, .inl rfl⟩, .inl (by simp [hp])⟩
      | some w =>
        cases hr : lineReady s l with
        | false => exact ⟨{ s.ports with schedule := ls }, ⟨rfl, rfl, rfl, rfl, .inl rfl⟩, .inl (by simp [hp, hr])⟩
        | true =>
          refine ⟨taken { s.ports with schedule := ls } l, ?_, .inr ⟨w, by simp [hp, hr]⟩⟩
          cases l with
          | rx =>
            refine ⟨rfl, rfl, rfl, rfl, .inr ⟨⟨hr, ls, hs⟩, ?_⟩⟩
            cases hq : upcoming s.ports.rxQ s.ports.rxLoop with
            | nil => simp [presented, hq] at hp
            | cons tok q => exact ⟨tok, by simp [taken, hq]⟩
          | host => exact ⟨rfl, rfl, rfl, rfl, .inl rfl⟩
          | aux => exact ⟨rfl, rfl, rfl, rfl, .inl rfl⟩
          | strobe k => exact ⟨rfl, rfl, rfl, rfl, .inl rfl⟩

/-- The ways a step answers a next state: no transfer, a rejected word, or the meaning of an instruction. -/
theorem step_cases {s t : State} (h : step s = .next t) :
    ∃ q : Ports, PortsMoved s q ∧
      (t = { s with ports := q } ∨ t = State.answer .illegal { s with ports := q } ∨
        ∃ i, exec i { s with ports := q } = .next t) := by
  obtain ⟨q, hq, hf | ⟨w, hf⟩⟩ := fetch_cases s
  · exact ⟨q, hq, .inl (by simpa [step, hf] using h.symm)⟩
  · refine ⟨q, hq, ?_⟩
    simp only [step, hf] at h
    cases hd : decode w with
    | ok i => exact .inr (.inr ⟨i, by simpa [hd] using h⟩)
    | error e =>
      cases w <;> simp only [hd, rejectStim, respond_eq, Host.Outcome.next.injEq] at h
      · exact .inr (.inl h.symm)
      all_goals exact .inl h.symm

/-- A run is the run of its first steps and then of the rest. -/
theorem runSteps_append {m n : Nat} {s t : State} (h : runSteps m s = .next t) :
    runSteps (m + n) s = runSteps n t := by
  induction m generalizing s with
  | zero =>
    cases h
    rw [Nat.zero_add]
  | succ m ih =>
    rw [Nat.succ_add]
    simp only [runSteps] at h ⊢
    cases hs : step s with
    | next u => simp only [hs] at h ⊢; exact ih h
    | fault f => simp [hs] at h
    | refused r => simp [hs] at h

end Sys2Proof.Machine
end

