-- ==== Sys2Proof/Machine/Assembler.lean ====
section
/-! DEFINITION. The spec's assembler operands (R101) and pseudo-commands (R102). Reading a text line into its mnemonic
and numbers is the toolchain's; what an operand may be, and which command it becomes, is here. No step uses this
file. -/

namespace Sys2Proof.Machine

/-- `x` as a value of w bits, when it is no wider (R101). -/
def operand (w x : Nat) : Option (BitVec w) := if x < 2 ^ w then some (BitVec.ofNat w x) else none

/-- A command from its mnemonic and its operands in order; none where the mnemonic is unknown, the number of operands
is wrong, or an operand is out of range (R101). -/
def assembleInstr (mnemonic : String) (operands : List Nat) : Option Instr :=
  match mnemonic, operands with
  | "NOP", [] => some .nop
  | "RX_ARM", [] => some .rxArm
  | "RD_STATUS", [] => some .rdStatus
  | "RD_CURSOR", [] => some .rdCursor
  | "SET_EXT", [p, m] =>
    match operand 8 p, operand 1 m with
    | some p', some m' => some (.setExt p' (m'.getLsbD 0))
    | _, _ => none
  | "CUR_INIT", [] => some .curInit
  | "GET_BYTES", [n] => if legalCount n then some (.getBytes n) else none
  | "GET_I16", [] => some .getI16
  | "GET_U16", [] => some .getU16
  | "GET_I32", [] => some .getI32
  | "GET_U32", [] => some .getU32
  | "GET_I64", [] => some .getI64
  | "GET_U64", [] => some .getU64
  | "GET_F32", [] => some .getF32
  | "GET_F64", [] => some .getF64
  | "GET_ID", [] => some .getId
  | "TX_OPEN", [] => some .txOpen
  | "TX_PUT8", [b] => (operand 8 b).map .txPut8
  | "TX_PUT16", [v] => (operand 16 v).map .txPut16
  | "TX_PUT32", [v] => (operand 32 v).map .txPut32
  | "TX_PUT64", [v] => (operand 64 v).map .txPut64
  | "TX_PUTN", [n, v] =>
    if legalCount n && decide (v < 2 ^ (8 * n)) then some (.txPutN n (BitVec.ofNat 64 v)) else none
  | "TX_CHECKSUM", [] => some .txChecksum
  | "TX_CLOSE", [] => some .txClose
  | "TX_COMMAND", [id] => (operand 16 id).map .txCommand
  | "TX_SEND", [] => some .txSend
  | _, _ => none

/-- The command pair an assembler line becomes (R101). -/
def assemble (mnemonic : String) (operands : List Nat) : Option Stim := (assembleInstr mnemonic operands).map encode

/-- The pseudo-commands of R102. A float operand is given as its bit pattern. -/
inductive Pseudo where
  | getFrame
  | putByte (b : Byte)
  | putI16 (v : BitVec 16)
  | putU16 (v : BitVec 16)
  | putI32 (v : BitVec 32)
  | putU32 (v : BitVec 32)
  | putI64 (v : BitVec 64)
  | putU64 (v : BitVec 64)
  | putF32 (bits : BitVec 32)
  | putF64 (bits : BitVec 64)
  | putBytes (n : Nat) (v : BitVec 64)
  | frame (id : BitVec 16)
  | endFrame
  | endFrameNoSum
deriving DecidableEq, Repr

/-- The expansions of R102. -/
def expandPseudo : Pseudo → List Instr
  | .getFrame => [.rxArm]
  | .putByte b => [.txPut8 b]
  | .putI16 v => [.txPut16 v]
  | .putU16 v => [.txPut16 v]
  | .putI32 v => [.txPut32 v]
  | .putU32 v => [.txPut32 v]
  | .putI64 v => [.txPut64 v]
  | .putU64 v => [.txPut64 v]
  | .putF32 v => [.txPut32 v]
  | .putF64 v => [.txPut64 v]
  | .putBytes n v => [.txPutN n v]
  | .frame id => [.txOpen, .txCommand id]
  | .endFrame => [.txChecksum, .txClose]
  | .endFrameNoSum => [.txClose]

end Sys2Proof.Machine
end

