-- ==== Sys2Proof/Tests/Slice0.lean ====
section
/-! SUPPORT. The model's own tests. The expected results are those of spec/95_test_vectors.md (the vector is named) or of
the example under a rule (the rule is named). The witnesses show, for each obligation with hypotheses, a state and
operands that meet them all. -/

namespace Sys2Proof.Tests

open Sys2Proof Sys2Proof.Machine

/-! ### Small states and a helper -/

/-- The meaning answers a next state and it passes the check. -/
def passes (i : Instr) (s : State) (check : State → Bool) : Bool :=
  match exec i s with
  | .next t => check t
  | .fault _ => false
  | .refused _ => false

/-- The step answers a next state and it passes the check. -/
def stepPasses (s : State) (check : State → Bool) : Bool :=
  match step s with
  | .next t => check t
  | .fault _ => false
  | .refused _ => false

/-- The sequence answers a next state and it passes the check. -/
def allPass (is : List Instr) (s : State) (check : State → Bool) : Bool :=
  match execAll is s with
  | .next t => check t
  | .fault _ => false
  | .refused _ => false

/-- Reset, then RX_ARM. -/
def armed : State := { State.reset with armed := true }

/-- armed, after `rx 10`. -/
def opened : State := { armed with rxState := .awaitId }

/-- armed, after `rx 10 4B 01` (FC5, FC9). -/
def inBody : State :=
  { armed with rxState := .awaitData, rbuf := [(0, 0x4B), (1, 0x01)], rlen := 2, s1 := 0x4B, s2 := 0x4C }

/-- armed, after `rx 10 4B 01 00 4C 10`: vector A before its last byte. -/
def escaped : State :=
  { armed with
    rxState := .awaitEsc, rbuf := [(0, 0x4B), (1, 0x01), (2, 0x00), (3, 0x4C)], rlen := 4
    s0 := 0x4C, s1 := 0x4C, s2 := 0x98 }

/-- armed, after `rx 10 4B 01 10 41`: a replay is pending (FC13). -/
def replaying : State :=
  { armed with rbuf := [(0, 0x4B), (1, 0x01)], s1 := 0x4B, s2 := 0x4C, ungetV := true, ungetB := 0x41 }

/-- After vector A: the result, and the cursor over its payload. -/
def framed : State :=
  { State.reset with
    rbuf := [(0, 0x4B), (1, 0x01), (2, 0x00), (3, 0x4C)], rlen := 4, s0 := 0x4C, s1 := 0x4C, s2 := 0x98
    resPending := true, resKind := .frame, resLen := 4, resValid := true, clen := 4 }

/-- A payload of 12 bytes with the cursor behind its first (CU1). -/
def fields : State :=
  { State.reset with
    rbuf := [(0, 0x4B), (1, 0xFF), (2, 0xFE), (3, 0x80), (4, 0), (5, 0), (6, 0), (7, 0xDE), (8, 0xAD), (9, 0xBE),
      (10, 0xEF), (11, 0x2A)]
    rlen := 12, clen := 12, coff := 1 }

/-- A frame of 4 bytes, `10 4B 10 03`, being sent; one byte is taken. -/
def sending : State :=
  { State.reset with
    tbuf := [(0, 0x10), (1, 0x4B), (2, 0x10), (3, 0x03)], tlen := 4, tsum := 0x4B, txBusy := true, txPtr := 1 }

/-- The same frame, not yet sent. -/
def built : State := { sending with txBusy := false, txPtr := 0 }

/-- `s` with this on its lines. -/
def lines (s : State) (ls : List Line) : State :=
  { s with
    ports :=
      { s.ports with hostQ := [(0x0100, 0), (0x05FF, 7)], rxQ := [0x04B, 0x1FF], auxQ := [0x71], schedule := ls } }

/-- `s` with an aux byte 0x71 and two ticks to come, round after round, for ever. -/
def kept (s : State) : State :=
  { s with
    ports := { s.ports with auxLoop := [0x71], scheduleLoop := List.replicate 2 (Line.strobe .tick) ++ [Line.aux] } }

/-! ### Well-formedness: every check refuses an ill-formed term -/

theorem test_wf_getBytes_zero : wellFormed (.getBytes 0) = false := by decide
theorem test_wf_getBytes_nine : wellFormed (.getBytes 9) = false := by decide
theorem test_wf_txPutN_zero : wellFormed (.txPutN 0 0) = false := by decide
theorem test_wf_txPutN_nine : wellFormed (.txPutN 9 0) = false := by decide
theorem test_wf_txPutN_wide : wellFormed (.txPutN 1 0x100) = false := by decide
theorem test_wf_accepts : wellFormed (.getBytes 8) = true ∧ wellFormed (.txPutN 1 0xFF) = true := by decide

/-! ### Decoding: a word of every constructor, written out from R93, R91 and R92 -/

theorem test_decode_control :
    decode (.cmd 0b0000000000000000#16 0) = .ok .nop ∧
    decode (.cmd 0b0000000100000000#16 0) = .ok .rxArm ∧
    decode (.cmd 0b0000001000000000#16 0) = .ok .rdStatus ∧
    decode (.cmd 0b0000001100000000#16 0) = .ok .rdCursor ∧
    decode (.cmd 0b0000010010001110#16 1) = .ok (.setExt 0x8E true) := by decide

theorem test_decode_cursor :
    decode (.cmd 0b0001000000000000#16 0) = .ok .curInit ∧
    decode (.cmd 0b0001000100000011#16 0) = .ok (.getBytes 3) ∧
    decode (.cmd 0b0001001000000000#16 0) = .ok .getI16 ∧
    decode (.cmd 0b0001001100000000#16 0) = .ok .getU16 ∧
    decode (.cmd 0b0001010000000000#16 0) = .ok .getI32 ∧
    decode (.cmd 0b0001010100000000#16 0) = .ok .getU32 ∧
    decode (.cmd 0b0001011000000000#16 0) = .ok .getI64 ∧
    decode (.cmd 0b0001011100000000#16 0) = .ok .getU64 ∧
    decode (.cmd 0b0001100000000000#16 0) = .ok .getF32 ∧
    decode (.cmd 0b0001100100000000#16 0) = .ok .getF64 ∧
    decode (.cmd 0b0001101000000000#16 0) = .ok .getId := by decide

theorem test_decode_tx :
    decode (.cmd 0b0010000000000000#16 0) = .ok .txOpen ∧
    decode (.cmd 0b0010000100010000#16 0) = .ok (.txPut8 0x10) ∧
    decode (.cmd 0b0010001000000000#16 0xFFFF1234) = .ok (.txPut16 0x1234) ∧
    decode (.cmd 0b0010001100000000#16 0xFF3F800000) = .ok (.txPut32 0x3F800000) ∧
    decode (.cmd 0b0010010000000000#16 0x1010101010101010) = .ok (.txPut64 0x1010101010101010) ∧
    decode (.cmd 0b0010010100000011#16 0xFFFF414243) = .ok (.txPutN 3 0x414243) ∧
    decode (.cmd 0b0010011000000000#16 0) = .ok .txChecksum ∧
    decode (.cmd 0b0010011100000000#16 0) = .ok .txClose ∧
    decode (.cmd 0b0010100000000000#16 0x8E15) = .ok (.txCommand 0x8E15) ∧
    decode (.cmd 0b0010100100000000#16 0) = .ok .txSend := by decide

theorem test_decode_stimuli :
    decode (.rx 0b001001011#9) = .ok (.rxByte 0x4B) ∧
    decode (.rx 0b111111111#9) = .ok .rxEos ∧
    decode (.aux 0b01110001#8) = .ok (.auxByte 0x71) ∧
    decode (.strobe .tick 0b1#1) = .ok .tick ∧
    decode (.strobe .txReady 0b1#1) = .ok .txAccept ∧
    decode (.strobe .txFail 0b1#1) = .ok .txFail ∧
    decode (.strobe .replay 0b1#1) = .ok .replay ∧
    decode (.strobe .rst 0b1#1) = .ok .reset := by decide

/-- The three grounds of R97, at the ends of their ranges, and a strobe at level 0. -/
theorem test_decode_rejects :
    decode (.cmd 0x0500 0) = .error .reservedOpcode ∧ decode (.cmd 0x0F00 0) = .error .reservedOpcode ∧
    decode (.cmd 0x1B00 0) = .error .reservedOpcode ∧ decode (.cmd 0xFFFF 0) = .error .reservedOpcode ∧
    decode (.cmd 0x0001 0) = .error .immNotZero ∧ decode (.cmd 0x1100 0) = .error .countOutOfRange ∧
    decode (.cmd 0x2509 0) = .error .countOutOfRange ∧ decode (.strobe .tick 0) = .error .strobeLow := by decide

/-- Words of the opcode table (log entry 11), and the next step runs the word placed. -/
theorem test_decodeTableWord :
    decodeTableWord 16 0x1103 = some (.getBytes 3) ∧ decodeTableWord 16 0x004B = some (.rxByte 0x4B) ∧
    decodeTableWord 16 0x0110 = some .rxEos ∧ decodeTableWord 8 0x71 = some (.auxByte 0x71) ∧
    decodeTableWord 8 1 = some .tick ∧ decodeTableWord 16 0x0500 = none := by decide

theorem test_withFetchWord_command :
    stepPasses (State.reset.withFetchWord 16 0x0100) (fun t => t.armed && t.ports.responses.length == 1) = true := by
  decide

theorem test_withFetchWord_token :
    stepPasses (armed.withFetchWord 16 0x1FF) (fun t => t.resKind == .eos && !t.armed) = true := by decide

/-! ### One step of each instruction -/

/-- R97: a reserved opcode answers ILLEGAL and changes nothing (as CT3); the command before it is taken first. -/
theorem test_illegal_command :
    stepPasses (lines State.reset [.host])
      (fun t => t.armed && t.ports.hostQ == [(0x05FF, 7)]) = true ∧
    stepPasses { State.reset with ports := { Ports.silent with hostQ := [(0x05FF, 7)], schedule := [.host] } }
      (fun t => t.ports.responses == [⟨.illegal, 0, 0⟩] && { t with ports := Ports.silent } == State.reset) = true := by
  decide

/-- CT1. -/
theorem test_nop : passes .nop armed (fun t => { t with ports := Ports.silent } == armed) = true := by decide

/-- R261's example: 0x0000_0000_0004_00B0 after vector A. -/
theorem test_rdStatus :
    passes .rdStatus framed (fun t => t.rdata == 0x00000000000400B0 && t.resPending) = true := by decide

/-- R262's example: after CUR_INIT over 4 bytes and GET_U16. -/
theorem test_rdCursor :
    passes .rdCursor { framed with coff := 2 } (fun t => t.rdata == 0x0000000400040002) = true := by decide

/-- DI7, and the bit cleared while its neighbour stays (R221). -/
theorem test_setExt :
    passes (.setExt 0xFF true) armed (fun t => extBit t.extMask 0xFF && !extBit t.extMask 0xFE) = true ∧
    passes (.setExt 0xFF false) { armed with extMask := BitVec.allOnes 256 }
      (fun t => !extBit t.extMask 0xFF && extBit t.extMask 0xFE) = true := by decide

/-- R192's example; CU20. -/
theorem test_curInit :
    passes .curInit { framed with clen := 0 } (fun t => t.clen == 4 && t.coff == 0) = true ∧
    passes .curInit armed (fun t => t.ports.responses == [⟨.busy, 0, 0⟩]) = true := by decide

/-- CU19; CU15: a short read of 8 over 4 bytes. -/
theorem test_getBytes :
    passes (.getBytes 3) { framed with coff := 2 }
      (fun t => t.rdata == 0x4C00 && t.coff == 4 && t.ports.responses == [⟨.short, 0x4C00, 2⟩]) = true ∧
    passes (.getBytes 8) framed (fun t => t.rdata == 0x4B01004C00000000 && t.rcount == 4) = true := by decide

/-- CU2. -/
theorem test_getI16 : passes .getI16 fields (fun t => t.rdata == 0xFFFFFFFFFFFFFFFE && t.coff == 3) = true := by decide

/-- As CU5: one byte left; it is consumed, rdata stays. -/
theorem test_getI16_short :
    passes .getI16 { fields with coff := 11, rdata := 7 }
      (fun t => t.rdata == 7 && t.coff == 12 && t.ports.responses == [⟨.short, 7, 1⟩]) = true := by decide

/-- CU8. -/
theorem test_getU16 : passes .getU16 fields (fun t => t.rdata == 0xFFFE && t.rcount == 2) = true := by decide

/-- CU3. -/
theorem test_getI32 :
    passes .getI32 { fields with coff := 3 } (fun t => t.rdata == 0xFFFFFFFF80000000 && t.coff == 7) = true := by decide

/-- CU4. -/
theorem test_getU32 : passes .getU32 { fields with coff := 7 } (fun t => t.rdata == 0xDEADBEEF) = true := by decide

/-- The bytes FE 80 00 00 00 DE AD BE, big-endian (R198, R199, R201). -/
theorem test_get64 :
    passes .getI64 { fields with coff := 2 } (fun t => t.rdata == 0xFE80000000DEADBE && t.rcount == 8) = true ∧
    passes .getU64 { fields with coff := 2 } (fun t => t.rdata == 0xFE80000000DEADBE) = true ∧
    passes .getF64 { fields with coff := 2 } (fun t => t.rdata == 0xFE80000000DEADBE) = true := by decide

/-- As CU13: a binary32 is not sign-extended (the bytes FF FE 80 00). -/
theorem test_getF32 :
    passes .getF32 { fields with coff := 1 } (fun t => t.rdata == 0x00000000FFFE8000) = true := by decide

/-- DI1, DI2: a two-byte identifier, and its second byte missing. -/
theorem test_getId :
    passes .getId { framed with rbuf := [(0, 0x8E), (1, 0x15)], rlen := 2, clen := 2, extMask := 1#256 <<< 0x8E }
      (fun t => t.rdata == 0x8E15 && t.rcount == 2 && t.coff == 2) = true ∧
    passes .getId { framed with rbuf := [(0, 0x8E)], rlen := 1, clen := 1, extMask := 1#256 <<< 0x8E, rdata := 0x77 }
      (fun t => t.ports.responses == [⟨.short, 0x77, 1⟩] && t.coff == 1) = true := by decide

/-- As FB1. -/
theorem test_txOpen :
    passes .txOpen { built with txErr := true } (fun t => t.tlen == 0 && t.tsum == 0 && !t.txErr) = true := by decide

/-- R163's example. -/
theorem test_txPut8 :
    passes (.txPut8 0x10) { State.reset with tbuf := [(0, 0x10), (1, 0x4B)], tlen := 2, tsum := 0x4B }
      (fun t => t.tbuf == [(0, 0x10), (1, 0x4B), (2, 0x10), (3, 0x10)] && t.tlen == 4 && t.tsum == 0x5B) = true := by
  decide

/-- FB5. -/
theorem test_txPut16 :
    passes (.txPut16 0x1234) State.reset (fun t => t.tbuf == [(0, 0x12), (1, 0x34)] && t.tsum == 0x46) = true := by
  decide

/-- FB6. -/
theorem test_txPut32 :
    passes (.txPut32 0x3F800000) State.reset
      (fun t => t.tbuf == [(0, 0x3F), (1, 0x80), (2, 0), (3, 0)] && t.tsum == 0xBF) = true := by decide

/-- FB7: the largest put; and it does not fit in a buffer of 15 (all or nothing, sticky). -/
theorem test_txPut64 :
    passes (.txPut64 0x1010101010101010) State.reset (fun t => t.tlen == 16 && t.tsum == 0x80) = true ∧
    passes (.txPut64 0x1010101010101010) { State.reset with cfg := { Config.standard with txCap := 15 } }
      (fun t => t.tbuf == [] && t.tsum == 0 && t.txOvf && t.ports.responses == [⟨.overflow, 0, 0⟩]) = true := by decide

/-- FB8. -/
theorem test_txPutN :
    passes (.txPutN 3 0x414243) State.reset
      (fun t => t.tbuf == [(0, 0x41), (1, 0x42), (2, 0x43)] && t.tsum == 0xC6) = true := by decide

/-- FB19: a checksum of two 0x10 bytes is stuffed. -/
theorem test_txChecksum :
    passes .txChecksum { State.reset with tsum := 0x1010 }
      (fun t => t.tbuf == [(0, 0x10), (1, 0x10), (2, 0x10), (3, 0x10)] && t.tsum == 0x1030) = true := by decide

/-- R169. -/
theorem test_txClose :
    passes .txClose { State.reset with tsum := 0x4B } (fun t => t.tbuf == [(0, 0x10), (1, 0x03)] && t.tsum == 0x4B) =
      true := by decide

/-- FB9, FB10. -/
theorem test_txCommand :
    passes (.txCommand 0x8E15) State.reset
      (fun t => t.tbuf == [(0, 0x10), (1, 0x8E), (2, 0x15)] && t.tsum == 0xA3) = true ∧
    passes (.txCommand 0x0010) State.reset
      (fun t => t.tbuf == [(0, 0x10), (1, 0x10), (2, 0x10)] && t.tsum == 0x10) = true := by decide

/-- R240's example; TR13. -/
theorem test_txSend :
    passes .txSend { built with txErr := true } (fun t => t.txBusy && t.txPtr == 0 && !t.txErr) = true ∧
    passes .txSend State.reset (fun t => !t.txBusy && t.ports.responses == [⟨.ok, 0, 0⟩]) = true := by decide

/-- R241: a byte in the middle, and the last one. -/
theorem test_txAccept :
    passes .txAccept sending (fun t => t.ports.txOut == [0x4B] && t.txPtr == 2 && t.txBusy) = true ∧
    passes .txAccept { sending with txPtr := 3 } (fun t => t.ports.txOut == [0x03] && t.txPtr == 4 && !t.txBusy) = true := by
  decide

/-- R242's example. -/
theorem test_txFail : passes .txFail sending (fun t => !t.txBusy && t.txErr && t.txPtr == 1) = true := by decide

/-- R230. -/
theorem test_rxArm :
    passes .rxArm framed (fun t => t.armed && !t.resPending && t.resKind == .none && t.clen == 0 && t.rlen == 4) = true := by
  decide

/-- Vector A's last byte; and FC5. -/
theorem test_rxByte :
    passes (.rxByte 0x03) escaped (fun t => t.resPending && t.resValid && t.resLen == 4 && !t.armed) = true ∧
    passes (.rxByte 0x4B) opened (fun t => t.rlen == 1 && t.s2 == 0x4B && t.rxState == .awaitData) = true := by decide

/-- TR2. -/
theorem test_rxEos :
    passes .rxEos inBody (fun t => t.resKind == .eos && t.rlen == 0 && t.rxState == .start && !t.armed) = true := by decide

/-- R233's example. -/
theorem test_auxByte :
    passes (.auxByte 0x71) { inBody with idleCnt := 200 } (fun t => t.ports.auxOut == [0x71] && t.idleCnt == 0) = true := by
  decide

/-- R236's example, and the same count in AWAIT_ID. -/
theorem test_tick :
    passes .tick { inBody with idleCnt := 249 }
      (fun t => t.resKind == .frame && t.resLen == 2 && !t.resValid && t.resForced && !t.armed) = true ∧
    passes .tick { opened with idleCnt := 249 } (fun t => t.armed && t.idleCnt == 0 && !t.resPending) = true := by decide

/-- FC13: the violation, and its replay. -/
theorem test_replay :
    passes (.rxByte 0x41) { inBody with rxState := .awaitEsc } (fun t => t == replaying) = true ∧
    passes .replay replaying (fun t => !t.ungetV && t.rxState == .start && t.rlen == 0 && t.armed) = true := by decide

/-- R300. -/
theorem test_reset :
    passes .reset sending (fun t => t == State.reset) = true := by decide

/-- R102: an expansion; R101: an operand out of range. -/
theorem test_assembler :
    assemble "TX_PUTN" [3, 0x414243] = some (.cmd 0x2503 0x414243) ∧ assemble "TX_PUTN" [1, 0x100] = none ∧
    assemble "SET_EXT" [0x100, 1] = none ∧ expandPseudo .endFrame = [.txChecksum, .txClose] := by decide

/-! ### Witnesses: the invariants hold in states of every kind -/

theorem inv_armed : Inv armed := by constructor <;> decide
theorem inv_opened : Inv opened := by constructor <;> decide
theorem inv_inBody : Inv inBody := by constructor <;> decide
theorem inv_escaped : Inv escaped := by constructor <;> decide
theorem inv_replaying : Inv replaying := by constructor <;> decide
theorem inv_framed : Inv framed := by constructor <;> decide
theorem inv_sending : Inv sending := by constructor <;> decide

theorem delay_inBody : DelayLine inBody := fun _ =>
  ⟨[0x4B, 0x01], by decide, by decide, by unfold holds; decide, by decide, by decide, by decide⟩

theorem delay_escaped : DelayLine escaped := fun _ =>
  ⟨[0x4B, 0x01, 0x00, 0x4C], by decide, by decide, by unfold holds; decide, by decide, by decide, by decide⟩

/-! ### Witnesses: encoding and stepping -/

theorem witness_DecodeUndoesEncode :
    wellFormed (.txPutN 8 0xFFFFFFFFFFFFFFFF) = true ∧ wellFormed (.txPutN 1 0xFF) = true ∧
    wellFormed (.getBytes 1) = true ∧ wellFormed (.getBytes 8) = true := by decide

theorem witness_DecodedWordsReencode :
    decode (.cmd 0x2503 0xFFFF414243) = .ok (.txPutN 3 0x414243) ∧
    (decode (.rx 0x0FF) = .ok (.rxByte 0xFF) ∧ (0x0FF#9).getLsbD 8 = false) ∧
    (decode (.rx 0x100) = .ok .rxEos ∧ (0x100#9).getLsbD 8 = true) ∧
    decode (.aux 0x00) = .ok (.auxByte 0) ∧ decode (.strobe .rst 1) = .ok .reset := by decide

theorem witness_IllegalCommandsChangeNothing :
    decode (.cmd 0x05FF 7) = .error .reservedOpcode ∧
    (lines inBody [.host]).ports.schedule = .host :: [] ∧
    (lines { inBody with rdata := 5 } [.host]).ports.hostQ = (0x0100, 0) :: [(0x05FF, 7)] := by decide

theorem witness_StepRunsTheTransferredInstruction :
    ((lines armed [.host]).ports.schedule = .host :: [] ∧ (lines armed [.host]).ports.hostQ = (0x0100, 0) :: [(0x05FF, 7)] ∧
      decode (.cmd 0x0100 0) = .ok .rxArm) ∧
    ((lines inBody [.rx]).ports.schedule = .rx :: [] ∧ (lines inBody [.rx]).ports.rxQ = 0x04B :: [0x1FF] ∧
      inBody.armed = true ∧ inBody.ungetV = false ∧ decode (.rx 0x04B) = .ok (.rxByte 0x4B)) ∧
    ((lines replaying [.aux]).ports.schedule = .aux :: [] ∧ (lines replaying [.aux]).ports.auxQ = 0x71 :: [] ∧
      replaying.armed = true ∧ decode (.aux 0x71) = .ok (.auxByte 0x71)) ∧
    ((lines sending [.strobe .txReady]).ports.schedule = .strobe .txReady :: [] ∧
      decode (.strobe .txReady 1) = .ok .txAccept) := by decide

theorem witness_StepsWithoutATransfer :
    ((lines framed [.rx, .host]).ports.schedule = .rx :: [.host] ∧ framed.armed = false) ∧
    ((lines replaying [.rx]).ports.schedule = .rx :: [] ∧ replaying.ungetV = true) ∧
    ((lines framed [.aux]).ports.schedule = .aux :: [] ∧ framed.armed = false) ∧
    ((lines replaying []).ports.schedule = [] ∧ replaying.ungetV = true) ∧
    ((lines inBody []).ports.schedule = [] ∧ inBody.ungetV = false ∧ (lines inBody []).ports.scheduleLoop = []) ∧
    ((kept inBody).ports.schedule = [] ∧ (kept inBody).ports.scheduleLoop ≠ []) := by decide

/-- Both edges of the counts. -/
theorem witness_DisabledStimuliAndIllegalCountsChangeNothing :
    framed.armed = false ∧ framed.txBusy = false ∧ framed.ungetV = false ∧ replaying.ungetV = true ∧
    wellFormed (.getBytes 0) = false ∧ 8 < 9 := by decide

/-! ### Witnesses: reset and invariants -/

theorem witness_InvariantHoldsAfterReset :
    ({ Config.standard with rxCap := 1, txCap := 4, idleLimit := 1 } : Config).wf ∧
    ({ Config.standard with rxCap := 65535, txCap := 65535, idleLimit := 65535 } : Config).wf := by decide

theorem inv_lines : Inv (lines inBody [.rx]) := by constructor <;> decide

theorem step_lines : ∃ t, step (lines inBody [.rx]) = .next t := ⟨_, rfl⟩

theorem witness_StepKeepsInvariant : Inv (lines inBody [.rx]) ∧ ∃ t, step (lines inBody [.rx]) = .next t :=
  ⟨inv_lines, step_lines⟩

theorem witness_StepKeepsDelayLine :
    Inv (lines inBody [.rx]) ∧ DelayLine (lines inBody [.rx]) ∧ ∃ t, step (lines inBody [.rx]) = .next t :=
  ⟨inv_lines, delay_inBody, step_lines⟩

theorem witness_StepNeverStops : Inv sending ∧ Inv framed ∧ Inv replaying := ⟨inv_sending, inv_framed, inv_replaying⟩

theorem witness_StepKeepsParameters : ∃ t, step (lines inBody [.rx]) = .next t := step_lines

theorem witness_RxTokensAreTakenInOrder :
    stepPasses (lines inBody [.rx]) (fun t => t.ports.rxQ == [0x1FF]) = true ∧
    stepPasses (lines inBody [.host]) (fun t => t.ports.rxQ == [0x04B, 0x1FF]) = true := by decide

/-- The loop goes on when its list is empty, and is whole again after it (log entry 2). -/
theorem test_aux_loop :
    stepPasses { (kept inBody) with ports := { (kept inBody).ports with schedule := [.aux] } }
      (fun t => t.ports.auxOut == [0x71] && t.ports.auxQ == [] && t.ports.auxLoop == [0x71]) = true ∧
    stepPasses (kept inBody) (fun t => t.idleCnt == 1 && t.ports.schedule == [.strobe .tick, .aux]) = true := by decide

theorem witness_EveryCommandAnswersOnce :
    (∃ t, exec .getU16 fields = .next t) ∧ (encode .getU16).line = .host ∧
    (∃ t, exec .txAccept sending = .next t) ∧ (encode .txAccept).line ≠ .host ∧ Instr.tick ≠ .txAccept :=
  ⟨⟨_, rfl⟩, by decide, ⟨_, rfl⟩, by decide, by decide⟩

/-! ### Witnesses: RX deframer -/

theorem witness_RxByteInStart : armed.armed = true ∧ armed.ungetV = false ∧ armed.rxState = .start := by decide

theorem witness_MarkersInAwaitId : opened.armed = true ∧ opened.ungetV = false ∧ opened.rxState = .awaitId := by decide

theorem witness_IdentifierStartsAFrame :
    opened.armed = true ∧ opened.ungetV = false ∧ opened.rxState = .awaitId ∧ 1 ≤ opened.cfg.rxCap ∧
    (0x11#8 ≠ 0x10#8 ∧ 0x11#8 ≠ 0x03#8) ∧ (0x04#8 ≠ 0x10#8 ∧ 0x04#8 ≠ 0x03#8) := by decide

/-- The last byte that fits (rlen = RX_CAP − 1) and the first that does not (rlen = RX_CAP), in both states. -/
theorem witness_BodyBytesAreAppendedOrOverflow :
    (inBody.armed = true ∧ inBody.ungetV = false ∧ inBody.rxState = .awaitData ∧ 0x03#8 ≠ 0x10#8) ∧
    (let s := { inBody with cfg := { Config.standard with rxCap := 3 } };
      s.rlen.toNat < s.cfg.rxCap ∧ s.rlen.toNat + 1 = s.cfg.rxCap) ∧
    (let s := { inBody with cfg := { Config.standard with rxCap := 2 } };
      s.rlen.toNat = s.cfg.rxCap) ∧
    (let s := { escaped with cfg := { Config.standard with rxCap := 4 } };
      s.armed = true ∧ s.ungetV = false ∧ s.rxState = .awaitEsc ∧ s.rlen.toNat = s.cfg.rxCap) := by decide

/-- Normal at 4 bytes, forced at 2 (no claim) and at 3 (the shortest claim), at the expiring tick. -/
theorem witness_CompletionDeliversTheFrame :
    (escaped.armed = true ∧ escaped.ungetV = false ∧ escaped.rxState = .awaitEsc ∧ 2 < escaped.rlen.toNat ∧
      escaped.rlen.toNat ≤ escaped.cfg.rxCap ∧ escaped.rbuf.read 3 = some 0x4C ∧ escaped.rbuf.read 2 = some 0x00) ∧
    (let s := { inBody with idleCnt := 249 };
      s.armed = true ∧ s.ungetV = false ∧ s.rxState = .awaitData ∧ s.cfg.idleLimit ≤ s.idleCnt.toNat + 1 ∧
        s.rlen.toNat ≤ 2) ∧
    (let s := { escaped with rlen := 3, idleCnt := 249 };
      s.rxState = .awaitEsc ∧ s.cfg.idleLimit ≤ s.idleCnt.toNat + 1 ∧ 2 < s.rlen.toNat ∧
        s.rbuf.read (s.rlen.toNat - 1) = some 0x00 ∧ s.rbuf.read (s.rlen.toNat - 2) = some 0x01) := by decide

theorem witness_ViolationDiscardsSilently :
    escaped.armed = true ∧ escaped.ungetV = false ∧ escaped.rxState = .awaitEsc ∧ 0x41#8 ≠ 0x10#8 ∧ 0x41#8 ≠ 0x03#8 := by
  decide

theorem witness_ReplayChangesOnlyUngetV : Inv replaying ∧ replaying.ungetV = true := ⟨inv_replaying, rfl⟩

theorem witness_ValidityIsTheChecksumClaim :
    (Inv escaped ∧ DelayLine escaped ∧ escaped.armed = true ∧ escaped.ungetV = false ∧ escaped.rxState = .awaitEsc) ∧
    [0x4B#8, 0x01#8, 0x00#8, 0x4C#8].length = escaped.rlen.toNat ∧
    holds escaped.rbuf 0 [0x4B#8, 0x01#8, 0x00#8, 0x4C#8] ∧
    (let s := { escaped with idleCnt := 249 };
      Inv s ∧ DelayLine s ∧ inFrame s ∧ s.cfg.idleLimit ≤ s.idleCnt.toNat + 1) :=
  ⟨⟨inv_escaped, delay_escaped, by decide⟩, by decide, by unfold holds; decide,
    by constructor <;> decide, delay_escaped, by decide⟩

/-- A payload of 4 bytes, of 1, and of exactly RX_CAP. -/
theorem witness_DeframerReadsTheWireForm :
    armed.armed = true ∧ armed.ungetV = false ∧ armed.rxState = .start ∧ armed.cfg.rxCap ≤ 65535 ∧
    (let p : List Byte := [0x4B, 0x01, 0x00, 0x4C];
      1 ≤ p.length ∧ p.length ≤ armed.cfg.rxCap ∧ p.head? ≠ some 0x10#8 ∧ p.head? ≠ some 0x03#8) ∧
    (let p : List Byte := List.replicate 16 0x4B;
      p.length = armed.cfg.rxCap ∧ p.head? ≠ some 0x10#8 ∧ p.head? ≠ some 0x03#8) := by decide

/-! ### Witnesses: transport -/

theorem witness_RxArmStartsAGetFrame : armed.armed = true ∧ framed.armed = false := by decide

theorem witness_EndOfStreamDiscardsTheFrame : inBody.armed = true ∧ inBody.ungetV = false := by decide

theorem witness_AuxByteIsForwarded : replaying.armed = true := by decide

/-- The last tick that counts and the first that expires, in START and AWAIT_ID; IDLE_LIMIT = 1 (TR8). -/
theorem witness_TickCounts :
    framed.armed = false ∧
    (let s := { inBody with idleCnt := 248 };
      s.armed = true ∧ s.idleCnt.toNat + 1 < s.cfg.idleLimit) ∧
    (let s := { opened with idleCnt := 249 };
      s.armed = true ∧ s.cfg.idleLimit ≤ s.idleCnt.toNat + 1 ∧ s.rxState = .awaitId) ∧
    (let s := { armed with cfg := { Config.standard with idleLimit := 1 } };
      s.armed = true ∧ s.cfg.idleLimit ≤ s.idleCnt.toNat + 1 ∧ s.rxState = .start) := by decide

theorem witness_SilentFrameIsForcedAtTheLimit : Inv inBody ∧ inFrame inBody ∧ inBody.idleCnt = 0 :=
  ⟨inv_inBody, by decide, by decide⟩

theorem witness_IdleCountRestartsOnActivity :
    (Inv inBody ∧ (∃ t, exec (.rxByte 0x03) inBody = .next t) ∧ inBody.armed = true ∧ inBody.ungetV = false) ∧
    (Inv replaying ∧ (∃ t, exec .replay replaying = .next t) ∧ ∃ t, exec (.auxByte 1) replaying = .next t) ∧
    (Inv escaped ∧ passes (.rxByte 0x03) escaped (fun t => !t.armed) = true) ∧
    (Inv framed ∧ (∃ t, exec .tick framed = .next t) ∧ (∃ t, exec .rxArm framed = .next t) ∧ framed.armed = false) :=
  ⟨⟨inv_inBody, ⟨_, rfl⟩, by decide, by decide⟩, ⟨inv_replaying, ⟨_, rfl⟩, ⟨_, rfl⟩⟩, ⟨inv_escaped, by decide⟩,
    inv_framed, ⟨_, rfl⟩, ⟨_, rfl⟩, by decide⟩

theorem witness_WaitsThatNeverEnd :
    ((Inv opened ∧ opened.armed = true ∧ opened.rxState = .awaitId) ∧
      (Inv armed ∧ armed.armed = true ∧ armed.rxState = .start)) ∧
    (let s := kept inBody;
      Inv s ∧ s.armed = true ∧ inFrame s ∧ s.idleCnt = 0 ∧ 2 < s.cfg.idleLimit ∧ s.ports.schedule = [] ∧
        s.ports.scheduleLoop = List.replicate 2 (Line.strobe .tick) ++ [Line.aux] ∧ s.ports.auxQ = [] ∧
        s.ports.auxLoop = [0x71]) ∧
    (Inv replaying ∧ (∃ t, exec .replay replaying = .next t) ∧ replaying.armed = true) ∧
    ((∃ t, exec .tick sending = .next t) ∧ sending.txBusy = true) :=
  ⟨⟨⟨inv_opened, by decide⟩, inv_armed, by decide⟩, ⟨by constructor <;> decide, by decide⟩,
    ⟨inv_replaying, ⟨_, rfl⟩, by decide⟩, ⟨_, rfl⟩, by decide⟩

theorem witness_OnlyAResultEndsAGetFrame :
    passes .rxEos inBody (fun t => inBody.armed && !t.armed) = true ∧
    passes .reset inBody (fun t => inBody.armed && !t.armed) = true := by decide

theorem witness_ResultIsHeldUntilRxArm :
    Inv framed ∧ framed.resPending = true ∧ Instr.tick ≠ .rxArm ∧ Instr.tick ≠ .reset ∧ ∃ t, exec .tick framed = .next t :=
  ⟨inv_framed, by decide, by decide, by decide, ⟨_, rfl⟩⟩

theorem witness_PayloadIsHeldUntilRxArm :
    framed.armed = false ∧ framed.ungetV = false ∧ (∃ t, exec .getU16 framed = .next t) ∧
    ∃ t, exec .rxArm framed = .next t :=
  ⟨by decide, by decide, ⟨_, rfl⟩, ⟨_, rfl⟩⟩

theorem witness_StreamStateMovesOnlyOnItsCauses :
    passes (.rxByte 0x10) armed (fun t => t.rxState != armed.rxState) = true ∧
    passes .tick { inBody with idleCnt := 249 } (fun t => t.rxState != inBody.rxState) = true := by decide

/-! ### Witnesses: TX framer and send -/

theorem witness_TxOpenStartsAFrame : sending.txBusy = true ∧ built.txBusy = false := by decide

theorem witness_TxOpenLeavesTxPtrAboveTlen :
    (Inv sending ∧ sending.txPtr.toNat ≤ sending.tlen.toNat ∧ (∃ t, exec .txAccept sending = .next t) ∧
      Instr.txAccept ≠ .txOpen) ∧
    (let s := { built with txPtr := 4 };
      Inv s ∧ s.txBusy = false ∧ 0 < s.txPtr.toNat) :=
  ⟨⟨inv_sending, by decide, ⟨_, rfl⟩, by decide⟩, by constructor <;> decide, by decide, by decide⟩

/-- 95, TR12d's end (tlen = 7, tx_ptr = 7) and then FB1's TX_OPEN: tlen is 0, and R49 keeps tx_ptr (log entry 10). -/
theorem test_txOpen_keeps_txPtr :
    passes .txOpen { State.reset with tlen := 7, txPtr := 7 } (fun t => t.tlen == 0 && t.txPtr == 7) = true := by decide

/-- A state for each clause of WritesWire, for n wire bytes: busy; overflowed; one byte too few; just fitting. -/
def writeStates (n : Nat) : Bool :=
  sending.txBusy &&
  (let s := { built with txOvf := true }; !s.txBusy && s.txOvf) &&
  (let s := { built with cfg := { Config.standard with txCap := 3 + n } };
    !s.txBusy && !s.txOvf && decide (s.cfg.txCap < s.tlen.toNat + n)) &&
  (let s := { built with cfg := { Config.standard with txCap := 4 + n } };
    !s.txBusy && !s.txOvf && decide (s.tlen.toNat + n ≤ s.cfg.txCap))

theorem witness_PutsWriteStuffedBytes :
    putBytes (.txPut8 0x10) = some [0x10#8] ∧ putBytes (.txPutN 1 0x10) = some [0x10#8] ∧ stuff [0x10#8] = [0x10, 0x10] ∧
    putBytes (.txPutN 8 0x4142434445464748) = some [0x41, 0x42, 0x43, 0x44, 0x45, 0x46, 0x47, 0x48] ∧
    writeStates 2 = true ∧ writeStates 8 = true ∧ 8 < (0x09#8).toNat := by decide

theorem witness_ChecksumAppendsTheRunningSum :
    (stuff [built.tsum.extractLsb' 8 8, built.tsum.extractLsb' 0 8]).length = 2 ∧ writeStates 2 = true := by decide

theorem witness_CloseAppendsTheTerminator : writeStates 2 = true := by decide

/-- The widest one-byte identifier and the narrowest two-byte one. -/
theorem witness_CommandWritesTheHeader :
    ((0x00FF#16).toNat < 256 ∧ (0x10#8 :: stuff [(0x00FF#16).setWidth 8]).length = 2 ∧ writeStates 2 = true) ∧
    (256 ≤ (0x0100#16).toNat ∧ (0x10#8 :: stuff [(0x0100#16).extractLsb' 8 8, (0x0100#16).setWidth 8]).length = 3 ∧
      writeStates 3 = true) := by decide

theorem witness_TxSendStartsTheSend :
    sending.txBusy = true ∧
    (let s := { built with txOvf := true };
      s.txBusy = false ∧ s.txOvf = true) ∧
    (built.txBusy = false ∧ built.txOvf = false ∧ 0 < built.tlen.toNat) ∧
    (State.reset.txBusy = false ∧ State.reset.txOvf = false ∧ State.reset.tlen = 0) := by decide

theorem witness_TxAcceptSendsOneByte :
    sending.txBusy = true ∧ sending.txPtr.toNat < sending.cfg.txCap ∧ sending.tbuf.read sending.txPtr.toNat = some 0x4B ∧
    (let s := { sending with txPtr := 3 };
      s.tbuf.read s.txPtr.toNat = some 0x03 ∧ s.txPtr + 1 = s.tlen) := by decide

theorem witness_TxFailIsRecoverable : sending.txBusy = true ∧ Inv sending := ⟨by decide, inv_sending⟩

theorem witness_SendEmitsTheFrameInOrder :
    Inv built ∧ built.txBusy = false ∧ built.txOvf = false ∧
    [0x10#8, 0x4B#8, 0x10#8, 0x03#8].length = built.tlen.toNat ∧ holds built.tbuf 0 [0x10#8, 0x4B#8, 0x10#8, 0x03#8] :=
  ⟨by constructor <;> decide, by decide, by decide, by decide, by unfold holds; decide⟩

/-- Vector A: TX_COMMAND 0x4B, TX_PUT8 0x01; the buffer it just fills (FB16). -/
theorem witness_BuiltFrameIsTheWireForm :
    let s := { State.reset with cfg := { Config.standard with txCap := 7 } };
    let puts : List (Instr × List Byte) := [(.txPut8 0x01, [0x01])];
    let p : List Byte := [0x4B, 0x01, 0x00, 0x4C];
    (∀ x ∈ puts, putBytes x.1 = some x.2) ∧ s.txBusy = false ∧ s.cfg.txCap ≤ 65535 ∧
    p = idBytes 0x4B ++ (puts.map Prod.snd).flatten ++ [0x00, 0x4C] ∧
    byteSum (idBytes 0x4B) + byteSum (puts.map Prod.snd).flatten = 0x004C ∧
    p.length + p.count 0x10#8 + 3 ≤ s.cfg.txCap ∧ s.cfg.txSumIncludesId = true := by decide

/-- Vector A again, in a TX buffer and an RX buffer that it just fills. -/
theorem witness_BuiltFramesRoundTrip :
    let s := { State.reset with cfg := { Config.standard with txCap := 7 } };
    let r := { armed with cfg := { Config.standard with rxCap := 4 } };
    let puts : List (Instr × List Byte) := [(.txPut8 0x01, [0x01])];
    let p : List Byte := [0x4B, 0x01, 0x00, 0x4C];
    (∀ x ∈ puts, putBytes x.1 = some x.2) ∧ s.txBusy = false ∧ s.cfg.txCap ≤ 65535 ∧
    s.cfg.txSumIncludesId = true ∧ byteSum (idBytes 0x4B ++ (puts.map Prod.snd).flatten) = 0x004C ∧
    p = idBytes 0x4B ++ (puts.map Prod.snd).flatten ++ [0x00, 0x4C] ∧
    p.length + p.count 0x10#8 + 3 ≤ s.cfg.txCap ∧ r.armed = true ∧ r.ungetV = false ∧ r.rxState = .start ∧
    p.length ≤ r.cfg.rxCap ∧ r.cfg.rxCap ≤ 65535 ∧ p.head? ≠ some 0x10#8 ∧ p.head? ≠ some 0x03#8 := by decide

/-- Vector A's payload with its byte 1, the last but two, changed from 01 to 02. -/
theorem witness_OneChangedByteIsDetected :
    let p : List Byte := [0x4B, 0x01, 0x00, 0x4C];
    armed.armed = true ∧ armed.ungetV = false ∧ armed.rxState = .start ∧ p.length ≤ armed.cfg.rxCap ∧
    armed.cfg.rxCap ≤ 65535 ∧ checksumClaim p = true ∧ 1 + 3 ≤ p.length ∧ p[1]? ≠ some 0x02#8 ∧
    (p.set 1 0x02).head? ≠ some 0x10#8 ∧ (p.set 1 0x02).head? ≠ some 0x03#8 := by decide

/-! ### Witnesses: cursor and identifier -/

theorem witness_CurInitCoversThePayload : armed.armed = true ∧ framed.armed = false := by decide

/-- Both bytes there, and one byte short. -/
theorem witness_ShortScalarGets :
    armed.armed = true ∧
    (fields.armed = false ∧ fields.coff.toNat ≤ fields.clen.toNat ∧
      [0xFF#8, 0xFE#8].length = min 2 (fields.clen.toNat - fields.coff.toNat) ∧
      fields.coff.toNat + [0xFF#8, 0xFE#8].length ≤ fields.cfg.rxCap ∧ holds fields.rbuf 1 [0xFF#8, 0xFE#8]) ∧
    (let s := { fields with coff := 11 };
      s.armed = false ∧ s.coff.toNat ≤ s.clen.toNat ∧ [0x2A#8].length = min 2 (s.clen.toNat - s.coff.toNat) ∧
      [0x2A#8].length < 2 ∧ s.coff.toNat + 1 ≤ s.cfg.rxCap ∧ holds s.rbuf 11 [0x2A#8]) := by unfold holds; decide

/-- Eight bytes there, and seven. -/
theorem witness_LongScalarGets :
    (let s := { fields with coff := 4 };
      let bs : List Byte := [0, 0, 0, 0xDE, 0xAD, 0xBE, 0xEF, 0x2A];
      s.armed = false ∧ s.coff.toNat ≤ s.clen.toNat ∧ bs.length = min 8 (s.clen.toNat - s.coff.toNat) ∧
      s.coff.toNat + bs.length ≤ s.cfg.rxCap ∧ holds s.rbuf 4 bs) ∧
    (let s := { fields with coff := 5 };
      let bs : List Byte := [0, 0, 0xDE, 0xAD, 0xBE, 0xEF, 0x2A];
      bs.length = min 8 (s.clen.toNat - s.coff.toNat) ∧ bs.length < 8 ∧ holds s.rbuf 5 bs) := by unfold holds; decide

/-- A full read of two bytes, and count 3 with two bytes there. -/
theorem witness_GetBytesPadsTheTail :
    armed.armed = true ∧
    (let s := { framed with coff := 2 };
      let bs : List Byte := [0x00, 0x4C];
      s.armed = false ∧ s.coff.toNat ≤ s.clen.toNat ∧ bs.length = min 2 (s.clen.toNat - s.coff.toNat) ∧
      bs.length = min 3 (s.clen.toNat - s.coff.toNat) ∧ s.coff.toNat + bs.length ≤ s.cfg.rxCap ∧
      holds s.rbuf 2 bs) ∧ 8 < (0x09#8).toNat := by unfold holds; decide

theorem witness_CursorIsBusyWhileArmed : armed.armed = true ∧ wellFormed (.getBytes 8) = true := by decide

theorem witness_CursorIsMonotone :
    Inv framed ∧ (∃ t, exec .getU16 framed = .next t) ∧ Instr.getU16 ≠ .curInit ∧ Instr.getU16 ≠ .rxArm ∧
    Instr.getU16 ≠ .reset :=
  ⟨inv_framed, ⟨_, rfl⟩, by decide⟩

/-- No byte; a one-byte identifier; the sub-identifier missing; a two-byte identifier. -/
theorem witness_GetIdReadsTheEffectiveIdentifier :
    armed.armed = true ∧
    (let s := { framed with coff := 4 };
      s.armed = false ∧ s.coff = s.clen) ∧
    (framed.coff ≠ framed.clen ∧ framed.coff.toNat < framed.cfg.rxCap ∧ framed.rbuf.read 0 = some 0x4B ∧
      framed.extMask.getLsbD 0x4B = false) ∧
    (let s := { framed with coff := 3, extMask := BitVec.allOnes 256 };
      s.coff ≠ s.clen ∧ s.rbuf.read 3 = some 0x4C ∧ s.extMask.getLsbD 0x4C = true ∧ s.coff + 1 = s.clen) ∧
    (let s := { framed with extMask := BitVec.allOnes 256 };
      s.coff ≠ s.clen ∧ s.rbuf.read 0 = some 0x4B ∧ s.extMask.getLsbD 0x4B = true ∧ s.coff + 1 ≠ s.clen ∧
      (s.coff + 1).toNat < s.cfg.rxCap ∧ s.rbuf.read (s.coff + 1).toNat = some 0x01) := by decide

theorem witness_RxAndTxAreIndependent : rxSide (.rxByte 0) = true ∧ txSide .txAccept = true := by decide

end Sys2Proof.Tests
end

/-! ### What an instruction does to the parameters and to the ports -/

namespace Sys2Proof.Machine

/-- No instruction writes a build parameter (R9). -/
theorem Effect.cfg_eq {i : Instr} {s t : State} (he : Effect s i t) : t.cfg = s.cfg := by
  cases he with
  | byte _ h => exact (deframe_rxOnly h).cfg
  | replay _ h => exact (deframe_rxOnly h).cfg
  | force _ _ _ h => exact (complete_rxOnly h).cfg
  | _ => rfl

/-- A cursor command arrives on the host port (R93). -/
theorem line_eq_host_of_readsCursor {i : Instr} (h : readsCursor i = true) : (encode i).line = .host := by
  cases i with
  | getBytes | getI16 | getU16 | getI32 | getU32 | getI64 | getU64 | getF32 | getF64 | getId => rfl
  | _ => cases h

/-- A TX command arrives on the host port (R93). -/
theorem line_eq_host_of_buildsFrame {i : Instr} (h : buildsFrame i = true) : (encode i).line = .host := by
  cases i with
  | txOpen | txPut8 | txPut16 | txPut32 | txPut64 | txPutN | txChecksum | txClose | txCommand | txSend => rfl
  | _ => cases h

/-- The next states of an instruction, told apart by what the ports see of it. -/
inductive PortEffect (s : State) : Instr → State → Prop
  /-- a host command: everything it writes, and then its one response -/
  | responds {i : Instr} (hl : (encode i).line = .host) (u : State) (hu : u.ports = s.ports) (st : Status) :
      PortEffect s i (u.answer st)
  /-- a stimulus that sends nothing -/
  | silent {i : Instr} {t : State} (hl : (encode i).line ≠ .host) (hp : t.ports = s.ports) : PortEffect s i t
  /-- TX_ACCEPT hands a byte to the sink (R241) -/
  | sendsTx {t : State} (b : Byte) (hp : t.ports = (s.emitTx b).ports) : PortEffect s .txAccept t
  /-- AUX_BYTE forwards its byte (R233) -/
  | sendsAux {t : State} (a : Byte) (hp : t.ports = (s.emitAux a).ports) : PortEffect s (.auxByte a) t

/-- Every effect of an instruction is one of the four the ports see. -/
theorem Effect.portEffect {i : Instr} {s t : State} (he : Effect s i t) : PortEffect s i t := by
  cases he with
  | stays hl => exact .silent hl rfl
  | answers st hl => exact .responds hl s rfl st
  | arm => exact .responds rfl _ (by rfl) _
  | setExt => exact .responds rfl _ (by rfl) _
  | readReg h => exact .responds (by rcases h with rfl | rfl <;> rfl) _ (by rfl) _
  | curInit => exact .responds rfl _ (by rfl) _
  | get h => exact .responds (line_eq_host_of_readsCursor h) _ (by rfl) _
  | build h => exact .responds (line_eq_host_of_buildsFrame h) _ (by rfl) _
  | byte _ h => exact .silent (by simp [encode, Stim.line]) (deframe_rxOnly h).ports
  | eos => exact .silent (by decide) rfl
  | aux a => exact .sendsAux a rfl
  | count => exact .silent (by decide) rfl
  | force _ _ _ h => exact .silent (by decide) (complete_rxOnly h).ports
  | accept _ b => exact .sendsTx b rfl
  | fail => exact .silent (by decide) rfl
  | replay _ h => exact .silent (by decide) (deframe_rxOnly h).ports
  | reset => exact .silent (by decide) rfl

/-- Settles O15, by the four port effects of an instruction. -/
theorem everyCommandAnswersOnce : Obligations.EveryCommandAnswersOnce := by
  intro i s t he
  cases (exec_effect he).portEffect with
  | responds hl u hu st => simp [State.answer, hl, hu]
  | silent hl hp => simp [hl, hp]
  | sendsTx b hp => simp [hp, State.emitTx, encode, Stim.line]
  | sendsAux a hp => simp [hp, State.emitAux, encode, Stim.line]

/-- Settles O13: a handshake moves the ports only, and no instruction writes a parameter. -/
theorem stepKeepsParameters : Obligations.StepKeepsParameters := by
  intro s t h
  obtain ⟨q, -, rfl | rfl | ⟨i, he⟩⟩ := step_cases h
  · rfl
  · rfl
  · exact (exec_effect he).cfg_eq

/-! ### The step on a transfer -/

/-- A scheduled line that presents a word while its port is ready makes a transfer (R53). -/
theorem fetch_of_ready {s : State} {l : Line} {ls : List Line} {w : Stim} (hs : s.ports.schedule = l :: ls)
    (hp : presented s.ports l = some w) (hr : lineReady s l = true) :
    fetch s = (some w, { s with ports := taken { s.ports with schedule := ls } l }) := by
  simp [fetch, hs, hp, hr]

/-- The step on a transfer is the meaning of the instruction it decodes to, the word taken from its source (R15). -/
theorem step_of_ready {s : State} {l : Line} {ls : List Line} {w : Stim} {i : Instr} (hs : s.ports.schedule = l :: ls)
    (hp : presented s.ports l = some w) (hr : lineReady s l = true) (hd : decode w = .ok i) :
    step s = exec i { s with ports := taken { s.ports with schedule := ls } l } := by
  simp only [step, fetch_of_ready hs hp hr, hd]

/-- Settles O5, line by line: each presents its first word, is ready, and loses that word. -/
theorem stepRunsTheTransferredInstruction : Obligations.StepRunsTheTransferredInstruction := by
  refine fun s ls i => ⟨fun c d q hs hq hd => ?host, fun t q hs hq ha hv hd => ?rx, fun a q hs hq ha hd => ?aux,
    fun k hs hd => ?strobe⟩
  case host => simpa [taken, hq] using step_of_ready hs (w := .cmd c d) (by simp [presented, hq]) rfl hd
  case rx =>
    have hr : lineReady s .rx = true := by simp [lineReady, rxReady, ha, hv]
    simpa [taken, hq] using step_of_ready hs (w := .rx t) (by simp [presented, hq]) hr hd
  case aux => simpa [taken, hq] using step_of_ready hs (w := .aux a) (by simp [presented, hq]) ha hd
  case strobe => exact step_of_ready hs rfl rfl hd

end Sys2Proof.Machine

/-! ### The invariant: what each update of the state does to it -/

namespace Sys2Proof.Machine

/-- A 16-bit element below a capacity is stepped on without a wrap (R13). -/
theorem toNat_succ_of_lt {x : Half} {n : Nat} (hx : x.toNat < n) (hn : n ≤ 65535) : (x + 1).toNat = x.toNat + 1 := by
  bv_omega

section Parameters
variable {s : State} (h : Inv s)
include h

theorem Inv.rxCap_pos : 0 < s.cfg.rxCap := h.cfgWf.1.1
theorem Inv.rxCap_le : s.cfg.rxCap ≤ 65535 := h.cfgWf.1.2
theorem Inv.txCap_le : s.cfg.txCap ≤ 65535 := h.cfgWf.2.1.2
theorem Inv.idleLimit_pos : 0 < s.cfg.idleLimit := h.cfgWf.2.2.1
theorem Inv.idleLimit_le : s.cfg.idleLimit ≤ 65535 := h.cfgWf.2.2.2

end Parameters

theorem rxReady_iff {s : State} : rxReady s = true ↔ s.armed = true ∧ s.ungetV = false := by simp [rxReady]

/-- The invariant says nothing of the ports (R53). -/
theorem Inv.withPorts {s : State} (h : Inv s) (q : Ports) : Inv { s with ports := q } := { h with }

theorem Inv.answer {s : State} (h : Inv s) (st : Status) : Inv (s.answer st) := h.withPorts _

/-- R55's values meet the invariant, whatever the parameters and the ports. -/
theorem inv_resetOf {c : Config} (hc : c.wf) (p : Ports) : Inv (State.resetOf c p) := by
  have hidle : 0 < c.idleLimit := hc.2.2.1
  constructor
  case cfgWf => exact hc
  all_goals simp [State.resetOf, inFrame, hidle]

/-- No replay is pending while a frame is in progress: the violation that asks for one drops the frame (R51). -/
theorem Inv.noReplay_of_inFrame {s : State} (h : Inv s) (hf : inFrame s) : s.ungetV = false := by
  by_contra hv
  obtain ⟨-, hs, -, -⟩ := h.ungetState (by simpa using hv)
  simp [inFrame, hs] at hf

theorem Inv.resKind_of_armed {s : State} (h : Inv s) (ha : s.armed = true) : s.resKind = .none :=
  h.noResult (h.armedNoResult ha)

/-- Any idle count below the limit will do while the count runs (R37). -/
theorem Inv.withIdleCnt {s : State} (h : Inv s) (ha : s.armed = true) {k : Half} (hk : k.toNat < s.cfg.idleLimit) :
    Inv { s with idleCnt := k } :=
  { h with idleLt := hk, disarmed := by simp [ha] }

theorem Inv.clearIdle {s : State} (h : Inv s) (ha : s.armed = true) : Inv { s with idleCnt := 0 } :=
  h.withIdleCnt ha h.idleLimit_pos

/-- The unget slot may be emptied while armed (R132). -/
theorem Inv.clearUnget {s : State} (h : Inv s) (ha : s.armed = true) : Inv { s with ungetV := false } :=
  { h with ungetState := by simp, disarmed := by simp [ha] }

/-- While armed with no replay pending `rx_state` may move, into a frame only when the payload has begun (R51). -/
theorem Inv.withRxState {s : State} (h : Inv s) (ha : s.armed = true) (hv : s.ungetV = false) (r : RxState)
    (hr : r = .awaitData ∨ r = .awaitEsc → 1 ≤ s.rlen.toNat) : Inv { s with rxState := r } :=
  { h with ungetState := by simp [hv], disarmed := by simp [ha], frameStarted := hr }

/-- While armed a byte may be written at an index of the payload or just behind it, the payload then ending with it
(R126, R129). -/
theorem Inv.writeByte {s : State} (h : Inv s) (ha : s.armed = true) {n : Half} (hn : n.toNat ≤ s.rlen.toNat)
    (hc : n.toNat < s.cfg.rxCap) (b : Byte) : Inv { s with rbuf := s.rbuf.write n.toNat b, rlen := n + 1 } := by
  have hlen : (n + 1).toNat = n.toNat + 1 := toNat_succ_of_lt hc h.rxCap_le
  obtain ⟨hclen, -⟩ := h.armedCursor ha
  refine { h with
    rbufWf := Memory.write_wf _ b h.rbufWf
    rbufBound := Memory.write_bound b hc h.rbufBound
    payloadWritten := fun i hi => ?_
    clenLe := by simp [hclen]
    rlenLe := hlen.trans_le hc
    frameStarted := fun _ => hlen.symm ▸ Nat.le_add_left 1 _
    frameLen := by simp [h.resKind_of_armed ha] }
  rcases Nat.lt_succ_iff_lt_or_eq.1 (hlen ▸ hi) with hi | rfl
  · exact Memory.isSome_write _ b (h.payloadWritten i (by omega))
  · simp

/-- `discard()` keeps the invariant while armed: the cursor is at 0 and there is no result (R131). -/
theorem Inv.discard {s : State} (h : Inv s) (ha : s.armed = true) : Inv s.discard := by
  obtain ⟨hclen, -⟩ := h.armedCursor ha
  exact { h with
    payloadWritten := by simp
    clenLe := by simp [hclen]
    rlenLe := by simp
    ungetState := fun hv => ⟨ha, rfl, (h.ungetState hv).2.2⟩
    disarmed := by simp [ha]
    frameStarted := by simp [inFrame]
    frameLen := by simp [h.resKind_of_armed ha] }

/-- `result(…)` keeps the invariant where no replay is pending and the operands are consistent (R38, R133). -/
theorem Inv.setResult {s : State} (h : Inv s) (hv : s.ungetV = false) {k : ResKind} {n : Half} {v f : Bool}
    (hk : k ≠ .frame → n = 0 ∧ v = false ∧ f = false) (hn : k = .frame → n = s.rlen) :
    Inv (s.setResult k n v f) :=
  { h with
    armedCursor := by simp
    ungetState := by simp [hv]
    disarmed := by simp [hv]
    frameStarted := by simp [inFrame]
    noResult := by simp
    armedNoResult := by simp
    notFrame := hk
    frameLen := hn
    idleLt := h.idleLimit_pos }

/-! ### The invariant through the deframer -/

theorem Inv.complete {s t : State} (h : Inv s) (hv : s.ungetV = false) {f : Bool}
    (he : Machine.complete f s = .ok t) : Inv t := by
  rcases complete_cases he with ⟨-, rfl⟩ | ⟨-, lo, hi, -, -, rfl⟩
  all_goals exact h.setResult hv (by simp) (by simp)

theorem Inv.tooLong {s : State} (h : Inv s) (ha : s.armed = true) (hv : s.ungetV = false) : Inv (tooLong s) :=
  (h.discard ha).setResult hv (by simp) (by simp)

/-- A violation's byte is no marker, and the frame is dropped: so the replay is one R51 allows (R128). -/
theorem Inv.violation {s : State} (h : Inv s) (ha : s.armed = true) {b : Byte} (hm : b ≠ startMarker)
    (ht : b ≠ terminator) : Inv (violation b s) :=
  { h.discard ha with
    ungetState := fun _ => ⟨ha, rfl, hm, ht⟩
    disarmed := fun hd => by simp [Machine.violation, ha] at hd }

/-- One byte through the state machine keeps the invariant (R122 to R133). -/
theorem Inv.deframe {s t : State} (h : Inv s) (ha : s.armed = true) (hv : s.ungetV = false) {b : Byte}
    (he : Machine.deframe b s = .ok t) : Inv t := by
  rcases deframe_cases he with ⟨-, -, rfl⟩ | ⟨-, -, rfl⟩ | ⟨-, -, rfl⟩ | ⟨-, -, rfl⟩ | ⟨-, -, -, hc, rfl⟩ |
    ⟨hs, -, rfl⟩ | ⟨-, hc, rfl⟩ | ⟨-, -, rfl⟩ | ⟨-, -, hk⟩ | ⟨-, hm, ht, rfl⟩
  · exact h.withRxState ha hv _ (by simp)
  · exact h
  · exact h
  · exact h.withRxState ha hv _ (by simp)
  · have hw := (h.writeByte ha (n := 0) (by simp) hc b).withRxState ha hv .awaitData (by simp)
    exact { hw with notFrame := fun hk => ⟨(h.notFrame hk).1, rfl, (h.notFrame hk).2.2⟩ }
  · exact h.withRxState ha hv _ fun _ => h.frameStarted (.inl hs)
  · have hw := h.writeByte ha (le_refl _) hc b
    have hlen : 1 ≤ (s.rlen + 1).toNat := by rw [toNat_succ_of_lt hc h.rxCap_le]; omega
    exact { hw.withRxState ha hv .awaitData (fun _ => hlen) with }
  · exact h.tooLong ha hv
  · exact h.complete hv hk
  · exact h.violation ha hm ht

/-! ### The invariant through the TX framer and the send -/

/-- `tx_write` keeps the invariant: it writes inside the buffer, without a gap, and not while sending (R161). -/
theorem Inv.txWrite {s : State} (h : Inv s) (v p : List Byte) (acc : Bool) (w : List Byte) :
    Inv (txWrite v p acc w s).2 := by
  rcases txWrite_cases v p acc w s with ⟨-, e⟩ | ⟨-, -, e⟩ | ⟨hb, -, -, e⟩ | ⟨hb, -, hfit, e⟩ <;> rw [e]
  · exact h
  · exact h
  · exact { h with sending := by simp [hb] }
  · have hcap : s.cfg.txCap ≤ 65535 := h.txCap_le
    generalize txWire v p w = bs at hfit
    have hlen : (s.tlen + BitVec.ofNat 16 bs.length).toNat = s.tlen.toNat + bs.length := by
      rw [BitVec.toNat_add, BitVec.toNat_ofNat]; omega
    refine { h with
      tbufWf := Memory.writeList_wf _ _ h.tbufWf
      tbufBound := Memory.writeList_bound _ hfit h.tbufBound
      frameWritten := fun i hi => ?_
      tlenLe := by simpa [hlen] using hfit
      sending := by simp [hb] }
    by_cases hi' : i < s.tlen.toNat
    · exact Memory.isSome_writeList _ _ (h.frameWritten i hi')
    · have hi2 : i < s.tlen.toNat + bs.length := hlen ▸ hi
      rw [Memory.read_writeList, if_pos (by omega), List.getElem?_eq_getElem (by omega)]
      rfl

theorem Inv.txCmd {s t : State} (h : Inv s) {v p : List Byte} {acc : Bool} {w : List Byte}
    (he : Machine.txCmd v p acc w s = .next t) : Inv t := by
  cases he
  exact (h.txWrite v p acc w).answer _

theorem Inv.execTxOpen {s t : State} (h : Inv s) (he : Machine.execTxOpen s = .next t) : Inv t := by
  unfold Machine.execTxOpen at he
  split at he <;> cases he
  · exact h.answer _
  · next hb => exact { h with frameWritten := by simp, tlenLe := by simp, sending := by simp [hb] }

/-- The send starts at index 0, and only when the frame has a byte there and has not overflowed (R240). -/
theorem Inv.execTxSend {s t : State} (h : Inv s) (he : Machine.execTxSend s = .next t) : Inv t := by
  unfold Machine.execTxSend at he
  split at he
  · cases he; exact h.answer _
  · split at he <;> cases he
    · exact h.answer _
    · next ho => exact { h with sending := by simp [ho], txPtrLe := by simp }

/-- The sink's byte moves `tx_ptr`, and the send ends when it reaches `tlen` (R241). -/
theorem Inv.execTxAccept {s t : State} (h : Inv s) (he : Machine.execTxAccept s = .next t) : Inv t := by
  unfold Machine.execTxAccept at he
  split at he
  · next hb =>
    obtain ⟨hlt, hovf⟩ := h.sending hb
    have hptr : (s.txPtr + 1).toNat ≤ s.tlen.toNat :=
      (toNat_succ_of_lt hlt (h.tlenLe.trans h.txCap_le)).trans_le hlt
    split at he <;> cases he
    refine { h with sending := fun hne => ⟨lt_of_le_of_ne hptr fun e => ?_, hovf⟩, txPtrLe := hptr.trans h.tlenLe }
    exact of_decide_eq_true hne (BitVec.eq_of_toNat_eq e)
  · cases he; exact h

/-- Every command of the TX framer, and TX_SEND, keeps the invariant. -/
theorem Inv.execBuild {i : Instr} {s t : State} (h : Inv s) (hi : buildsFrame i = true) (he : exec i s = .next t) :
    Inv t := by
  cases i with
  | txOpen => exact h.execTxOpen he
  | txSend => exact h.execTxSend he
  | txPutN n v =>
    simp only [exec, execTxPutN] at he
    split at he
    · exact h.txCmd he
    · cases he; exact h.answer _
  | txPut8 | txPut16 | txPut32 | txPut64 | txChecksum | txClose | txCommand => exact h.txCmd he
  | _ => cases hi

/-! ### The invariant through the cursor and the tick -/

/-- `rcount` holds a count of at most 8 (R44). -/
theorem toNat_rcount_le {k : Nat} (hk : k ≤ 8) : (BitVec.ofNat 4 k).toNat ≤ 8 := by
  rw [BitVec.toNat_ofNat]; omega

/-- A read of at most 8 bytes counts at most 8 (R44). -/
theorem rcount_getScalar_le {n : Nat} {f : List Byte → Quad} {s t : State} (hn : n ≤ 8) (hs : s.rcount.toNat ≤ 8)
    (he : getScalar n f s = .next t) : t.rcount.toNat ≤ 8 := by
  rcases getScalar_cases he with ⟨-, rfl⟩ | ⟨-, k, d, st, hk, rfl⟩
  · exact hs
  · exact toNat_rcount_le (by omega)

theorem rcount_execGetBytes_le {n : Nat} {s t : State} (hs : s.rcount.toNat ≤ 8) (he : execGetBytes n s = .next t) :
    t.rcount.toNat ≤ 8 := by
  by_cases hn : legalCount n = true
  · obtain ⟨-, hn⟩ := (legalCount_iff n).1 hn
    rcases execGetBytes_cases he with rfl | ⟨-, rfl⟩ | ⟨-, k, d, st, hk, rfl⟩
    · exact hs
    · exact hs
    · exact toNat_rcount_le (by omega)
  · simp only [execGetBytes, hn] at he
    cases he; exact hs

/-- GET_ID counts 0, 1 or 2 bytes (R220). -/
theorem rcount_execGetId_le {s t : State} (hs : s.rcount.toNat ≤ 8) (he : execGetId s = .next t) :
    t.rcount.toNat ≤ 8 := by
  simp only [execGetId, respond_eq] at he
  repeat' split at he
  all_goals cases he
  · exact hs
  all_goals simp

theorem rcount_le_of_readsCursor {i : Instr} {s t : State} (hi : readsCursor i = true) (hs : s.rcount.toNat ≤ 8)
    (he : exec i s = .next t) : t.rcount.toNat ≤ 8 := by
  cases i with
  | getBytes => exact rcount_execGetBytes_le hs he
  | getId => exact rcount_execGetId_le hs he
  | getI16 | getU16 | getI32 | getU32 | getI64 | getU64 | getF32 | getF64 =>
    exact rcount_getScalar_le (by decide) hs he
  | _ => cases hi

/-- The offset moved over at most the bytes left: the sum does not wrap, and stays within `clen` (R191). -/
theorem coff_add_toNat {s : State} (h : Inv s) {k : Nat} (hk : k ≤ s.clen.toNat - s.coff.toNat) :
    (s.coff + BitVec.ofNat 16 k).toNat = s.coff.toNat + k := by
  have hlt := s.clen.isLt
  have hle := h.coffLe
  rw [BitVec.toNat_add, BitVec.toNat_ofNat]; omega

/-- A cursor read moves `coff`, `rdata` and `rcount` only. -/
theorem Inv.get {s : State} (h : Inv s) (ha : s.armed = false) {k : Nat} (hk : k ≤ s.clen.toNat - s.coff.toNat)
    (d : Quad) {n : BitVec 4} (hn : n.toNat ≤ 8) :
    Inv { s with coff := s.coff + BitVec.ofNat 16 k, rdata := d, rcount := n } :=
  { h with
    coffLe := by
      have hle := h.coffLe
      simp only [coff_add_toNat h hk]; omega
    armedCursor := by simp [ha]
    rcountLe := hn }

theorem Inv.curInit {s : State} (h : Inv s) (ha : s.armed = false) : Inv { s with clen := s.rlen, coff := 0 } :=
  { h with coffLe := by simp, clenLe := le_refl _, armedCursor := by simp [ha] }

theorem Inv.arm {s : State} (h : Inv s) (ha : s.armed = false) : Inv
    { s with
      armed := true
      resPending := false, resKind := .none, resLen := 0, resValid := false, resForced := false
      clen := 0, coff := 0, idleCnt := 0 } := by
  obtain ⟨-, hv, -⟩ := h.disarmed ha
  exact { h with
    coffLe := by simp
    clenLe := by simp
    armedCursor := by simp
    ungetState := by simp [hv]
    disarmed := by simp
    noResult := by simp
    armedNoResult := by simp
    notFrame := by simp
    frameLen := by simp
    idleLt := h.idleLimit_pos }

/-- The idle count stays below its limit: it starts again where a tick would reach it (R236). -/
theorem idleCnt_execTick_lt {s t : State} (h : Inv s) (he : execTick s = .next t) :
    t.idleCnt.toNat < s.cfg.idleLimit := by
  have hzero : (0 : Half).toNat < s.cfg.idleLimit := h.idleLimit_pos
  unfold execTick at he
  split at he
  · split at he
    · next hlt =>
      cases he
      exact (toNat_succ_of_lt h.idleLt h.idleLimit_le).trans_lt hlt
    · cases hs : s.rxState <;> simp only [hs] at he
      case awaitData | awaitEsc =>
        rcases complete_cases (finish_eq_next.1 he) with ⟨-, rfl⟩ | ⟨-, lo, hi, -, -, rfl⟩ <;> exact hzero
      all_goals cases he; exact hzero
  · cases he; exact h.idleLt

/-! ### The invariant through an instruction and a step -/

/-- Every instruction keeps the invariant. -/
theorem Inv.exec {i : Instr} {s t : State} (h : Inv s) (he : Machine.exec i s = .next t) : Inv t := by
  cases exec_effect he with
  | stays => exact h
  | answers => exact h.answer _
  | arm ha => exact (h.arm ha).answer _
  | setExt | readReg => exact { h with }
  | curInit ha => exact (h.curInit ha).answer _
  | get hi ha k d n st hk =>
    have hn : n.toNat ≤ 8 := rcount_le_of_readsCursor hi h.rcountLe he
    exact (h.get ha (hk h.coffLe) d hn).answer _
  | build hi => exact h.execBuild hi he
  | byte hr hd =>
    obtain ⟨ha, hv⟩ := rxReady_iff.1 hr
    exact (h.clearIdle ha).deframe ha hv hd
  | eos hr =>
    obtain ⟨ha, hv⟩ := rxReady_iff.1 hr
    exact (h.discard ha).setResult hv (by simp) (by simp)
  | aux a ha => exact (h.clearIdle ha).withPorts _
  | count ha => exact h.withIdleCnt ha (idleCnt_execTick_lt h he)
  | force ha hf _ hk => exact (h.clearIdle ha).complete (h.noReplay_of_inFrame hf) hk
  | accept => exact h.execTxAccept he
  | fail => exact { h with sending := by simp }
  | replay hv hd =>
    obtain ⟨ha, -, -, -⟩ := h.ungetState hv
    exact (h.clearUnget ha).deframe ha rfl hd
  | reset => exact inv_resetOf h.cfgWf s.ports

/-- Settles O10: the handshake moves the ports only, and every instruction keeps the invariant. -/
theorem stepKeepsInvariant : Obligations.StepKeepsInvariant := by
  intro s t h hst
  obtain ⟨q, -, rfl | rfl | ⟨i, he⟩⟩ := step_cases hst
  · exact h.withPorts q
  · exact (h.withPorts q).answer _
  · exact (h.withPorts q).exec he

end Sys2Proof.Machine

/-! ### The delay line -/

namespace Sys2Proof.Machine

/-- Outside a frame the delay line claims nothing (R34). -/
theorem delayLine_of_not_inFrame {s : State} (h : ¬ inFrame s) : DelayLine s := fun hf => absurd hf h

theorem delayLine_resetOf (c : Config) (p : Ports) : DelayLine (State.resetOf c p) :=
  delayLine_of_not_inFrame (by simp [inFrame, State.resetOf])

theorem delayLine_setResult (s : State) (k : ResKind) (n : Half) (v f : Bool) : DelayLine (s.setResult k n v f) :=
  delayLine_of_not_inFrame (by simp [inFrame])

theorem delayLine_of_complete {s t : State} {f : Bool} (he : complete f s = .ok t) : DelayLine t := by
  rcases complete_cases he with ⟨-, rfl⟩ | ⟨-, lo, hi, -, -, rfl⟩ <;> exact delayLine_setResult _ _ _ _ _

/-- A byte just written is held where it was written. -/
theorem holds_write_same (m : Memory) (i : Nat) (b : Byte) : holds (m.write i b) i [b] :=
  holds_cons.2 ⟨Memory.read_write_same m i b, holds_nil _ _⟩

/-- The identifier byte is the whole payload and its own sum; `s0` and `s1` stand for no byte yet (R126, D8). -/
theorem delayLine_begin (s : State) (b : Byte) : DelayLine
    { s with rbuf := s.rbuf.write 0 b, rlen := 1, s2 := zext16 b, resValid := false, rxState := .awaitData } := by
  refine fun _ => ⟨[b], rfl, le_refl _, ?_, ?_, ?_, ?_⟩
  · exact holds_write_same s.rbuf 0 b
  · exact (BitVec.add_zero _).symm
  · simp
  · simp

/-- The append shifts the sums by one place as the payload grows by one byte (R129). -/
theorem DelayLine.append {s : State} (h : DelayLine s) (hf : inFrame s) (hlen : (s.rlen + 1).toNat = s.rlen.toNat + 1)
    (b : Byte) : DelayLine
    { s with
      rbuf := s.rbuf.write s.rlen.toNat b, rlen := s.rlen + 1
      s0 := s.s1, s1 := s.s2, s2 := s.s2 + zext16 b, rxState := .awaitData } := by
  intro _
  obtain ⟨p, hp, hpos, hh, h2, h1, -⟩ := h hf
  have hl : (p ++ [b]).length = p.length + 1 := by simp
  refine ⟨p ++ [b], by rw [hl, hp]; exact hlen.symm, by omega, ?_, ?_, fun _ => ?_, fun h3 => ?_⟩
  · refine holds_append.2 ⟨holds_write_of_ne hh (by omega), ?_⟩
    rw [Nat.zero_add, hp]
    exact holds_write_same s.rbuf _ b
  · simp [byteSum_append, h2]
  · rw [hl, Nat.add_sub_cancel, List.take_left]
    exact h2
  · rw [hl, Nat.add_sub_add_right, List.take_append_of_le_length (Nat.sub_le ..)]
    exact h1 (by omega)

/-- One byte through the state machine keeps the delay line (R122 to R133). -/
theorem DelayLine.deframe {s t : State} (h : DelayLine s) (hi : Inv s) {b : Byte} (he : Machine.deframe b s = .ok t) :
    DelayLine t := by
  rcases deframe_cases he with ⟨-, -, rfl⟩ | ⟨-, -, rfl⟩ | ⟨-, -, rfl⟩ | ⟨-, -, rfl⟩ | ⟨-, -, -, -, rfl⟩ |
    ⟨hs, -, rfl⟩ | ⟨hs, hc, rfl⟩ | ⟨-, -, rfl⟩ | ⟨-, -, hk⟩ | ⟨-, -, -, rfl⟩
  · exact delayLine_of_not_inFrame (by simp [inFrame])
  · exact h
  · exact h
  · exact delayLine_of_not_inFrame (by simp [inFrame])
  · exact delayLine_begin s b
  · exact fun _ => h (.inl hs)
  · exact h.append (hs.imp And.left And.left) (toNat_succ_of_lt hc hi.rxCap_le) b
  · exact delayLine_setResult _ _ _ _ _
  · exact delayLine_of_complete hk
  · exact delayLine_of_not_inFrame (by simp [inFrame, violation])

/-- Every instruction keeps the delay line: only a byte through the deframer moves it. -/
theorem DelayLine.exec {i : Instr} {s t : State} (h : DelayLine s) (hi : Inv s) (he : Machine.exec i s = .next t) :
    DelayLine t := by
  cases exec_effect he with
  | byte hr hd =>
    obtain ⟨ha, -⟩ := rxReady_iff.1 hr
    exact DelayLine.deframe (s := { s with idleCnt := 0 }) h (hi.clearIdle ha) hd
  | eos => exact delayLine_setResult _ _ _ _ _
  | force _ _ _ hk => exact delayLine_of_complete hk
  | replay hv hd =>
    obtain ⟨ha, -, -, -⟩ := hi.ungetState hv
    exact DelayLine.deframe (s := { s with ungetV := false }) h (hi.clearUnget ha) hd
  | reset => exact delayLine_resetOf _ _
  | stays | answers | arm | setExt | readReg | curInit | get | build | aux | count | accept | fail => exact h

/-- Settles O11: the handshake moves the ports only, and every instruction keeps the delay line. -/
theorem stepKeepsDelayLine : Obligations.StepKeepsDelayLine := by
  intro s t hi h hst
  obtain ⟨q, -, rfl | rfl | ⟨i, he⟩⟩ := step_cases hst
  · exact h
  · exact h
  · exact DelayLine.exec (s := { s with ports := q }) h (hi.withPorts q) he

/-- Settles O9: R55's values meet both invariants, and the standard parameters meet R9. -/
theorem invariantHoldsAfterReset : Obligations.InvariantHoldsAfterReset :=
  ⟨fun c p hc => ⟨inv_resetOf hc p, delayLine_resetOf c p⟩, inv_resetOf (by decide) _, delayLine_resetOf _ _⟩

end Sys2Proof.Machine

/-! ### No step from a state of the invariant stops -/

namespace Sys2Proof.Machine

/-- The bytes the cursor has left have been written and lie inside the buffer, so get_raw answers (R191). -/
theorem Inv.getRaw_isOk {s : State} (h : Inv s) (n : Nat) : ∃ bs t, getRaw n s = .ok (bs, t) := by
  have hoff := h.coffLe
  have hlen := h.clenLe.trans h.rlenLe
  obtain ⟨bs, hl, hh⟩ := exists_holds (m := s.rbuf) (i := s.coff.toNat) (n := min n (s.clen.toNat - s.coff.toNat))
    fun j _ hj => h.payloadWritten j (by have := h.clenLe; omega)
  exact ⟨bs, _, getRaw_of_holds hl hh (by omega)⟩

/-- A byte of the payload can be read (R32, R79). -/
theorem Inv.readRbuf_isOk {s : State} (h : Inv s) {i : Nat} (hi : i < s.rlen.toNat) : ∃ b, readRbuf s i = .ok b := by
  obtain ⟨b, hb⟩ := Option.isSome_iff_exists.1 (h.payloadWritten i hi)
  exact ⟨b, readRbuf_eq_ok.2 ⟨hi.trans_le h.rlenLe, hb⟩⟩

/-- A byte of the frame can be read (R45, R79). -/
theorem Inv.readTbuf_isOk {s : State} (h : Inv s) {i : Nat} (hi : i < s.tlen.toNat) : ∃ b, readTbuf s i = .ok b := by
  obtain ⟨b, hb⟩ := Option.isSome_iff_exists.1 (h.frameWritten i hi)
  exact ⟨b, readTbuf_eq_ok.2 ⟨hi.trans_le h.tlenLe, hb⟩⟩

theorem Inv.bodyAppend_isOk {s : State} (h : Inv s) (b : Byte) : ∃ r, bodyAppend b s = .ok r := by
  rcases lt_or_eq_of_le h.rlenLe with hlt | hfull
  · exact ⟨_, bodyAppend_of_lt hlt⟩
  · exact ⟨_, bodyAppend_of_full hfull⟩

/-- One byte through the state machine never faults (R122 to R133). -/
theorem Inv.deframe_isOk {s : State} (h : Inv s) (b : Byte) : ∃ t, Machine.deframe b s = .ok t := by
  unfold Machine.deframe
  cases s.rxState with
  | start => simp only; split <;> exact ⟨_, rfl⟩
  | awaitId =>
    simp only [beginFrame, writeRbuf_eq_ok.2 ⟨h.rxCap_pos, rfl⟩]
    split
    · exact ⟨_, rfl⟩
    · split <;> exact ⟨_, rfl⟩
  | awaitData =>
    obtain ⟨r, hr⟩ := h.bodyAppend_isOk b
    simp only [hr]
    split <;> exact ⟨_, rfl⟩
  | awaitEsc =>
    obtain ⟨⟨ok, u⟩, hr⟩ := h.bodyAppend_isOk startMarker
    simp only [hr]
    split
    · cases ok <;> exact ⟨_, rfl⟩
    · split
      · exact complete_isOk h.payloadWritten h.rlenLe
      · exact ⟨_, rfl⟩

theorem Inv.getScalar_isNext {s : State} (h : Inv s) (n : Nat) (f : List Byte → Quad) :
    ∃ t, getScalar n f s = .next t := by
  obtain ⟨bs, u, hr⟩ := h.getRaw_isOk n
  simp only [getScalar, hr, respond_eq]
  split
  · exact ⟨_, rfl⟩
  · split <;> exact ⟨_, rfl⟩

theorem Inv.execGetBytes_isNext {s : State} (h : Inv s) (n : Nat) : ∃ t, execGetBytes n s = .next t := by
  obtain ⟨bs, u, hr⟩ := h.getRaw_isOk n
  simp only [execGetBytes, hr, respond_eq]
  split
  · split <;> exact ⟨_, rfl⟩
  · exact ⟨_, rfl⟩

/-- GET_ID reads only where `coff` has not reached `clen` (R220). -/
theorem Inv.execGetId_isNext {s : State} (h : Inv s) : ∃ t, execGetId s = .next t := by
  simp only [execGetId, respond_eq]
  split
  · exact ⟨_, rfl⟩
  · split
    · exact ⟨_, rfl⟩
    · next hne =>
      have hlt : s.coff.toNat < s.clen.toNat := lt_of_le_of_ne h.coffLe (mt BitVec.eq_of_toNat_eq hne)
      obtain ⟨p, hp⟩ := h.readRbuf_isOk (hlt.trans_le h.clenLe)
      simp only [hp]
      split
      · split
        · exact ⟨_, rfl⟩
        · next hne =>
          have hle : (s.coff + 1).toNat ≤ s.clen.toNat :=
            (toNat_succ_of_lt hlt (Nat.le_of_lt_succ s.clen.isLt)).trans_le hlt
          have hlt : (s.coff + 1).toNat < s.clen.toNat := lt_of_le_of_ne hle (mt BitVec.eq_of_toNat_eq hne)
          obtain ⟨q, hq⟩ : ∃ q, readRbuf { s with coff := s.coff + 1 } (s.coff + 1).toNat = .ok q :=
            h.readRbuf_isOk (hlt.trans_le h.clenLe)
          simp only [hq]
          exact ⟨_, rfl⟩
      · exact ⟨_, rfl⟩

theorem Inv.execTick_isNext {s : State} (h : Inv s) : ∃ t, execTick s = .next t := by
  obtain ⟨u, hu⟩ : ∃ u, Machine.complete true { s with idleCnt := 0 } = .ok u :=
    complete_isOk h.payloadWritten h.rlenLe
  unfold execTick
  split
  · split
    · exact ⟨_, rfl⟩
    · simp only [hu, finish_ok]
      split <;> exact ⟨_, rfl⟩
  · exact ⟨_, rfl⟩

/-- The sink's byte lies below `tlen`, so it has been written (R241). -/
theorem Inv.execTxAccept_isNext {s : State} (h : Inv s) : ∃ t, Machine.execTxAccept s = .next t := by
  unfold Machine.execTxAccept
  split
  · next hb =>
    obtain ⟨b, hb⟩ := h.readTbuf_isOk (h.sending hb).1
    simp only [txData, hb]
    exact ⟨_, rfl⟩
  · exact ⟨_, rfl⟩

/-- Every instruction answers a next state where the invariant holds. -/
theorem Inv.exec_isNext {s : State} (h : Inv s) (i : Instr) : ∃ t, Machine.exec i s = .next t := by
  cases i with
  | nop | rdStatus | rdCursor | setExt | reset => exact ⟨_, rfl⟩
  | txPut8 | txPut16 | txPut32 | txPut64 | txChecksum | txClose | txCommand => exact ⟨_, rfl⟩
  | rxArm => simp only [Machine.exec, execRxArm, respond_eq]; split <;> exact ⟨_, rfl⟩
  | curInit => simp only [Machine.exec, execCurInit, respond_eq]; split <;> exact ⟨_, rfl⟩
  | txOpen => simp only [Machine.exec, Machine.execTxOpen, respond_eq]; split <;> exact ⟨_, rfl⟩
  | txPutN => simp only [Machine.exec, execTxPutN, Machine.txCmd, respond_eq]; split <;> exact ⟨_, rfl⟩
  | txSend =>
    simp only [Machine.exec, Machine.execTxSend, respond_eq]
    split
    · exact ⟨_, rfl⟩
    · split <;> exact ⟨_, rfl⟩
  | rxEos => simp only [Machine.exec, execRxEos]; split <;> exact ⟨_, rfl⟩
  | auxByte => simp only [Machine.exec, execAuxByte]; split <;> exact ⟨_, rfl⟩
  | txFail => simp only [Machine.exec, execTxFail]; split <;> exact ⟨_, rfl⟩
  | getBytes n => exact h.execGetBytes_isNext n
  | getI16 | getU16 | getI32 | getU32 | getI64 | getU64 | getF32 | getF64 => exact h.getScalar_isNext _ _
  | getId => exact h.execGetId_isNext
  | tick => exact h.execTick_isNext
  | txAccept => exact h.execTxAccept_isNext
  | rxByte b =>
    simp only [Machine.exec, execRxByte]
    split
    · next hr =>
      obtain ⟨ha, -⟩ := rxReady_iff.1 hr
      obtain ⟨t, ht⟩ := (h.clearIdle ha).deframe_isOk b
      exact ⟨t, finish_eq_next.2 ht⟩
    · exact ⟨_, rfl⟩
  | replay =>
    simp only [Machine.exec, execReplay]
    split
    · next hv =>
      obtain ⟨ha, -, -, -⟩ := h.ungetState hv
      obtain ⟨t, ht⟩ := (h.clearUnget ha).deframe_isOk s.ungetB
      exact ⟨t, finish_eq_next.2 ht⟩
    · exact ⟨_, rfl⟩

/-- Settles O12: a handshake moves the ports only, and every instruction it brings answers. -/
theorem stepNeverStops : Obligations.StepNeverStops := by
  intro s h
  obtain ⟨q, -, hf | ⟨w, hf⟩⟩ := fetch_cases s
  all_goals simp only [step, hf]
  · exact ⟨_, rfl⟩
  · cases decode w with
    | ok i => exact (h.withPorts q).exec_isNext i
    | error e => cases w <;> exact ⟨_, rfl⟩

end Sys2Proof.Machine

/-! ### The stream state, the cursor, and the step without a transfer -/

namespace Sys2Proof.Machine

/-- Settles O35: every other effect of an instruction has the `rx_state` it began with. -/
theorem streamStateMovesOnlyOnItsCauses : Obligations.StreamStateMovesOnlyOnItsCauses := by
  intro i s t he hne
  cases exec_effect he with
  | byte => exact .inl ⟨_, rfl⟩
  | eos => exact .inr (.inl rfl)
  | replay => exact .inr (.inr (.inl rfl))
  | reset => exact .inr (.inr (.inr (.inl rfl)))
  | force ha hf hl => exact .inr (.inr (.inr (.inr ⟨rfl, ha, hf, hl⟩)))
  | stays | answers | arm | setExt | readReg | curInit | get | build | aux | count | accept | fail =>
    exact absurd rfl hne

/-- Where `coff` and `clen` stay, the claim of R40 is the invariant's. -/
theorem Inv.cursor_of_eq {s t : State} (h : Inv s) (hoff : t.coff = s.coff) (hlen : t.clen = s.clen) :
    s.coff.toNat ≤ t.coff.toNat ∧ t.coff.toNat ≤ t.clen.toNat ∧ t.clen = s.clen :=
  ⟨hoff ▸ le_refl _, hoff ▸ hlen ▸ h.coffLe, hlen⟩

/-- Settles O54: only a cursor read moves `coff`, by no more than the bytes left. -/
theorem cursorIsMonotone : Obligations.CursorIsMonotone := by
  intro i s t h he hcur harm hres
  cases exec_effect he with
  | get _ _ k _ _ _ hk =>
    have hadd := coff_add_toNat h (hk h.coffLe)
    have hle := (h.exec he).coffLe
    exact ⟨hadd ▸ Nat.le_add_right .., hle, rfl⟩
  | byte _ hd => exact h.cursor_of_eq (deframe_rxOnly hd).coff (deframe_rxOnly hd).clen
  | replay _ hd => exact h.cursor_of_eq (deframe_rxOnly hd).coff (deframe_rxOnly hd).clen
  | force _ _ _ hk => exact h.cursor_of_eq (complete_rxOnly hk).coff (complete_rxOnly hk).clen
  | arm => exact absurd rfl harm
  | curInit => exact absurd rfl hcur
  | reset => exact absurd rfl hres
  | stays | answers | setExt | readReg | build | eos | aux | count | accept | fail => exact h.cursor_of_eq rfl rfl

/-- A line that is not ready costs its turn in the schedule, and nothing else (R54). -/
theorem step_of_notReady {s : State} {l : Line} {ls : List Line} (hs : s.ports.schedule = l :: ls)
    (hr : lineReady s l = false) : step s = .next { s with ports := { s.ports with schedule := ls } } := by
  have hf : fetch s = (none, { s with ports := { s.ports with schedule := ls } }) := by
    cases hp : presented s.ports l <;> simp [fetch, hs, hp, hr]
  simp only [step, hf]

/-- At the end of the schedule, with no replay pending, its loop goes on as the schedule (R312). -/
theorem fetch_of_schedule_ended {s : State} (hs : s.ports.schedule = []) (hv : s.ungetV = false) :
    fetch s = fetch { s with ports := { s.ports with schedule := s.ports.scheduleLoop } } := by
  cases hl : s.ports.scheduleLoop with
  | nil => exact congrArg (fun l => fetch { s with ports := { s.ports with schedule := l } }) hs
  | cons l ls =>
    unfold fetch
    rw [if_neg (by simp [hv]), if_neg (by simp [hv])]
    simp only [hs, hl, upcoming_nil, upcoming_cons]
    cases l <;> rfl

/-- Settles O6: the two lines that can be not ready, and the three ends of a schedule. -/
theorem stepsWithoutATransfer : Obligations.StepsWithoutATransfer := by
  refine fun s ls => ⟨fun hs hr => ?rx, fun hs ha => ?aux, fun hs hv => ?replay, fun hs hv hl => ?wait,
    fun hs hv => ?loop⟩
  case rx => exact step_of_notReady hs (by rcases hr with h | h <;> simp [lineReady, rxReady, h])
  case aux => exact step_of_notReady hs ha
  case replay => simp [step, fetch, hs, hv, decode, strobeInstr]
  case wait => simp [step, fetch, hs, hv, hl]
  case loop =>
    simp only [step, fetch_of_schedule_ended hs hv]

end Sys2Proof.Machine

/-! ### RX tokens -/

namespace Sys2Proof.Machine

/-- Every RX token is an instruction (R91). -/
theorem decode_rx_isOk (tok : BitVec 9) : ∃ i, decode (.rx tok) = .ok i := by
  by_cases h : tok.getLsbD 8
  · exact ⟨.rxEos, if_pos h⟩
  · exact ⟨.rxByte (tok.extractLsb' 0 8), if_neg h⟩

/-- With no replay pending, the line whose turn it is may stand in the schedule or in its loop. -/
theorem step_of_upcoming_ready {s : State} {l : Line} {ls : List Line} {w : Stim} {i : Instr}
    (hs : upcoming s.ports.schedule s.ports.scheduleLoop = l :: ls) (hv : s.ungetV = false)
    (hp : presented s.ports l = some w) (hr : lineReady s l = true) (hd : decode w = .ok i) :
    step s = exec i { s with ports := taken { s.ports with schedule := ls } l } := by
  simp [step, fetch, hs, hv, hp, hr, hd]

/-- No instruction touches what the RX source holds (R82). -/
theorem exec_keeps_rxSource {i : Instr} {s t : State} (he : exec i s = .next t) :
    t.ports.rxQ = s.ports.rxQ ∧ t.ports.rxLoop = s.ports.rxLoop := by
  obtain ⟨hports, -⟩ := everyCommandAnswersOnce i s t he
  rw [hports]
  exact ⟨rfl, rfl⟩

/-- Only the handshake of a step moves what the RX source holds. -/
theorem step_rxSource {s t : State} (h : step s = .next t) :
    ∃ q : Ports, PortsMoved s q ∧ t.ports.rxQ = q.rxQ ∧ t.ports.rxLoop = q.rxLoop := by
  obtain ⟨q, hq, rfl | rfl | ⟨i, he⟩⟩ := step_cases h
  · exact ⟨q, hq, rfl, rfl⟩
  · exact ⟨q, hq, rfl, rfl⟩
  · exact ⟨q, hq, exec_keeps_rxSource he⟩

/-- Settles O14: a handshake that moved the RX source was a transfer on its line, so the step ran the token. -/
theorem rxTokensAreTakenInOrder : Obligations.RxTokensAreTakenInOrder := by
  intro s t h
  obtain ⟨q, hq, hrxQ, hrxLoop⟩ := step_rxSource h
  refine ⟨hrxLoop.trans hq.rxLoop, ?_⟩
  rcases hq.rxQ with hkept | ⟨⟨hr, ls, hs⟩, tok, htok⟩
  · exact .inl (hrxQ.trans hkept)
  · rw [← hrxQ] at htok
    obtain ⟨ha, hv⟩ := rxReady_iff.1 hr
    obtain ⟨i, hd⟩ := decode_rx_isOk tok
    have hstep := step_of_upcoming_ready hs hv (w := .rx tok) (by simp [presented, htok]) hr hd
    refine .inr ⟨tok, ls, htok, ha, hv, hs, i, hd, ?_⟩
    simpa [taken, htok] using hstep.symm.trans h

end Sys2Proof.Machine

/-! ### The encoder and the decoder -/

namespace Sys2Proof.Machine

/-- Settles O3: each word is decoded by evaluation. -/
theorem specWordsDecode : Obligations.SpecWordsDecode := by
  unfold Obligations.SpecWordsDecode
  decide

/-! ### Decoding what was encoded -/

/-- A legal count fits its `imm8` (R94). -/
theorem toNat_imm_of_legalCount {n : Nat} (h : legalCount n = true) : (BitVec.ofNat 8 n).toNat = n := by
  obtain ⟨-, h8⟩ := (legalCount_iff n).1 h
  rw [BitVec.toNat_ofNat]
  omega

/-- The operand in the low bits of a data word is read back (R100). -/
theorem extractLsb'_setWidth_self {w : Nat} (h : w ≤ 64) (v : BitVec w) : (v.setWidth 64).extractLsb' 0 w = v := by
  rw [BitVec.extractLsb'_setWidth_of_le (by omega), BitVec.extractLsb'_eq_self]

theorem decode_rx_of_byte {t : BitVec 9} (h : t.getLsbD 8 = false) :
    decode (.rx t) = .ok (.rxByte (t.extractLsb' 0 8)) := by
  simp only [decode, h, Bool.false_eq_true, if_false]

theorem decode_rx_of_eos {t : BitVec 9} (h : t.getLsbD 8 = true) : decode (.rx t) = .ok .rxEos := by
  simp only [decode, h, if_true]

/-- Settles O1, row by row: a row without operands by evaluation, the others by reading their operand back. -/
theorem decodeUndoesEncode : Obligations.DecodeUndoesEncode := by
  intro i hw
  cases i with
  | nop | rxArm | rdStatus | rdCursor | curInit | getI16 | getU16 | getI32 | getU32 | getI64 | getU64 | getF32
  | getF64 | getId | txOpen | txChecksum | txClose | txSend => rfl
  | rxEos | auxByte | tick | txAccept | txFail | replay | reset => rfl
  | setExt p m => cases m <;> simp [encode, decode, decodeCmd]
  | getBytes n =>
    have hn : legalCount n = true := hw
    simp [encode, decode, decodeCmd, countImm, toNat_imm_of_legalCount hn, hn]
  | txPut8 b => simp [encode, decode, decodeCmd]
  | txPut16 v => simp [encode, decode, decodeCmd, zeroImm, extractLsb'_setWidth_self]
  | txPut32 v => simp [encode, decode, decodeCmd, zeroImm, extractLsb'_setWidth_self]
  | txPut64 v => simp [encode, decode, decodeCmd, zeroImm]
  | txPutN n v =>
    obtain ⟨hn, hv⟩ : legalCount n = true ∧ v.toNat < 2 ^ (8 * n) := by simpa [wellFormed] using hw
    simp [encode, decode, decodeCmd, countImm, toNat_imm_of_legalCount hn, hn, lowBytes_of_lt hv]
  | txCommand id => simp [encode, decode, decodeCmd, zeroImm, extractLsb'_setWidth_self]
  | rxByte b =>
    have hlow : (0#1 ++ b).getLsbD 8 = false := by rw [BitVec.getLsbD_append]; rfl
    have hb : (0#1 ++ b).extractLsb' 0 8 = b := BitVec.extractLsb'_append_eq_right
    rw [encode, decode_rx_of_byte hlow, hb]

/-! ### Encoding what was decoded -/

/-- An instruction stands for the command `op`, `imm` with the data word `d`, up to the bits it does not read (R95). -/
def Reencodes (op imm : Byte) (d : Quad) (i : Instr) : Prop :=
  wellFormed i = true ∧ encode i = .cmd (mkCmd op imm) (d &&& dataMask i)

/-- The 26 opcodes of R93. -/
def opcodes : List Nat :=
  [0x00, 0x01, 0x02, 0x03, 0x04, 0x10, 0x11, 0x12, 0x13, 0x14, 0x15, 0x16, 0x17, 0x18, 0x19, 0x1A,
    0x20, 0x21, 0x22, 0x23, 0x24, 0x25, 0x26, 0x27, 0x28, 0x29]

/-- The four ways an opcode treats its `imm8` (R93, R94), each with what the decoder answers. -/
inductive OpcodeAnswer (op imm : Byte) (d : Quad) : Except DecodeError Instr → Prop
  /-- `imm8` must be zero -/
  | zero {i : Instr} (hop : op.toNat ∈ opcodes) (himm : op.toNat ∉ [0x04, 0x11, 0x21, 0x25]) (hi : Reencodes op 0 d i) :
      OpcodeAnswer op imm d (zeroImm imm i)
  /-- `imm8` is a byte operand -/
  | operand {i : Instr} (hop : op.toNat ∈ [0x04, 0x21]) (hi : Reencodes op imm d i) : OpcodeAnswer op imm d (.ok i)
  /-- `imm8` is a count -/
  | count {i : Instr} (hop : op.toNat ∈ [0x11, 0x25]) (hi : legalCount imm.toNat = true → Reencodes op imm d i) :
      OpcodeAnswer op imm d (countImm imm i)
  /-- no row has this opcode -/
  | reserved (hop : op.toNat ∉ opcodes) : OpcodeAnswer op imm d (.error .reservedOpcode)

/-- A command without operands reads no bit of its data word. -/
theorem reencodes_plain (op : Byte) (d : Quad) {i : Instr} (hw : wellFormed i = true) (he : encode i = plainCmd op)
    (hm : dataMask i = 0#64) : Reencodes op 0 d i :=
  ⟨hw, by rw [he, hm, BitVec.and_zero]; rfl⟩

/-- The low n bits of a data word, as a mask reads them (R95). -/
theorem toNat_and_lowMask {n : Nat} (hn : n ≤ 64) (d : Quad) :
    (d &&& BitVec.ofNat 64 (2 ^ n - 1)).toNat = d.toNat % 2 ^ n := by
  have hlt : 2 ^ n - 1 < 2 ^ 64 := by
    have := Nat.pow_le_pow_right (n := 2) (by omega) hn
    omega
  rw [BitVec.toNat_and, BitVec.toNat_ofNat, Nat.mod_eq_of_lt hlt, Nat.and_two_pow_sub_one_eq_mod]

theorem setWidth_extractLsb'_eq_and {n : Nat} (hn : n ≤ 64) (d : Quad) :
    (d.extractLsb' 0 n).setWidth 64 = d &&& BitVec.ofNat 64 (2 ^ n - 1) := by
  apply BitVec.eq_of_toNat_eq
  have := Nat.mod_le d.toNat (2 ^ n)
  rw [toNat_and_lowMask hn, BitVec.toNat_setWidth, BitVec.extractLsb'_toNat, Nat.shiftRight_zero, Nat.mod_eq_of_lt]
  omega

/-- A command whose operand is the low n bits of its data word reads just those. -/
theorem reencodes_word {op : Byte} {d : Quad} {i : Instr} (n : Nat) (hn : n ≤ 64) (hw : wellFormed i = true)
    (he : encode i = .cmd (mkCmd op 0) ((d.extractLsb' 0 n).setWidth 64))
    (hm : dataMask i = BitVec.ofNat 64 (2 ^ n - 1)) : Reencodes op 0 d i :=
  ⟨hw, by rw [he, hm, setWidth_extractLsb'_eq_and hn]⟩

theorem lowBytes_eq_and {n : Nat} (hn : n ≤ 8) (d : Quad) : lowBytes n d = d &&& BitVec.ofNat 64 (2 ^ (8 * n) - 1) := by
  apply BitVec.eq_of_toNat_eq
  have := Nat.mod_le d.toNat (2 ^ (8 * n))
  rw [toNat_and_lowMask (by omega), lowBytes, BitVec.toNat_ofNat, Nat.mod_eq_of_lt]
  omega

theorem reencodes_setExt (imm : Byte) (d : Quad) : Reencodes 0x04 imm d (.setExt imm (d.getLsbD 0)) := by
  refine ⟨rfl, congrArg (Stim.cmd _) ?_⟩
  rw [dataMask, BitVec.and_one_eq_setWidth_ofBool_getLsbD]
  cases d.getLsbD 0 <;> rfl

theorem reencodes_txPutN {imm : Byte} (hn : legalCount imm.toNat = true) (d : Quad) :
    Reencodes 0x25 imm d (.txPutN imm.toNat (lowBytes imm.toNat d)) := by
  obtain ⟨-, h8⟩ := (legalCount_iff _).1 hn
  refine ⟨by simp [wellFormed, hn, lowBytes_lt], ?_⟩
  simp [encode, dataMask, lowBytes_eq_and h8]

theorem eq_ofNat_of_toNat_eq {w n : Nat} {x : BitVec w} (h : x.toNat = n) : x = BitVec.ofNat w n := by
  rw [← h, BitVec.ofNat_toNat, BitVec.setWidth_eq]

/-- What the decoder answers to a command, said once: an opcode of R93 as R94 and R95 say, any other not at all. -/
theorem decodeCmd_answer (op imm : Byte) (d : Quad) : OpcodeAnswer op imm d (decodeCmd (mkCmd op imm) d) := by
  simp only [decodeCmd, opField_mkCmd, immField_mkCmd]
  split
  case h_27 => -- no row
    exact .reserved (by simp_all [opcodes])
  all_goals obtain rfl := eq_ofNat_of_toNat_eq ‹op.toNat = _›
  case h_5 => -- SET_EXT
    exact .operand (by decide) (reencodes_setExt imm d)
  case h_7 => -- GET_BYTES
    exact .count (by decide) fun hn => ⟨hn, by simp [encode, dataMask]⟩
  case h_18 => -- TX_PUT8
    exact .operand (by decide) ⟨rfl, by simp [encode, dataMask]⟩
  case h_19 => -- TX_PUT16
    exact .zero (by decide) (by decide) (reencodes_word 16 (by decide) rfl rfl rfl)
  case h_20 => -- TX_PUT32
    exact .zero (by decide) (by decide) (reencodes_word 32 (by decide) rfl rfl rfl)
  case h_21 => -- TX_PUT64
    exact .zero (by decide) (by decide) ⟨rfl, congrArg (Stim.cmd _) BitVec.and_allOnes.symm⟩
  case h_22 => -- TX_PUTN
    exact .count (by decide) fun hn => reencodes_txPutN hn d
  case h_25 => -- TX_COMMAND
    exact .zero (by decide) (by decide) (reencodes_word 16 (by decide) rfl rfl rfl)
  -- the rows without operands
  all_goals exact .zero (by decide) (by decide) (reencodes_plain _ d rfl rfl rfl)

/-! ### Commands that decode -/

theorem zeroImm_eq_ok {imm : Byte} {i j : Instr} : zeroImm imm i = .ok j ↔ imm = 0 ∧ i = j := by
  unfold zeroImm
  split <;> simp_all

theorem countImm_eq_ok {imm : Byte} {i j : Instr} :
    countImm imm i = .ok j ↔ legalCount imm.toNat = true ∧ i = j := by
  unfold countImm
  split <;> simp_all

/-- A command that decodes stands for the instruction it decodes to. -/
theorem reencodes_of_decodeCmd {op imm : Byte} {d : Quad} {i : Instr} (h : decodeCmd (mkCmd op imm) d = .ok i) :
    Reencodes op imm d i := by
  have ha := decodeCmd_answer op imm d
  generalize decodeCmd (mkCmd op imm) d = r at h ha
  cases ha with
  | zero _ _ hi =>
    obtain ⟨rfl, rfl⟩ := zeroImm_eq_ok.1 h
    exact hi
  | operand _ hi =>
    cases h
    exact hi
  | count _ hi =>
    obtain ⟨hn, rfl⟩ := countImm_eq_ok.1 h
    exact hi hn
  | reserved => cases h

/-- An RX token with `rx_eos` = 0 is its low byte (R91). -/
theorem append_low_of_not_eos {t : BitVec 9} (h : t.getLsbD 8 = false) : 0#1 ++ t.extractLsb' 0 8 = t := by
  have hflag : t.extractLsb' 8 1 = 0#1 := by
    ext j hj
    obtain rfl : j = 0 := by omega
    simpa [BitVec.getLsbD_extractLsb'] using h
  rw [← hflag]
  exact BitVec.extractLsb'_append_extractLsb' (w := 1) (len := 8)

theorem level_of_decode_strobe {k : Strobe} {v : BitVec 1} {i : Instr} (h : decode (.strobe k v) = .ok i) :
    v = 1 ∧ strobeInstr k = i := by
  simp only [decode] at h
  split at h <;> simp_all

theorem encode_strobeInstr (k : Strobe) : encode (strobeInstr k) = .strobe k 1 := by
  cases k <;> rfl

/-- Settles O2, port by port. -/
theorem decodedWordsReencode : Obligations.DecodedWordsReencode := by
  intro w i h
  cases w with
  | cmd c d =>
    rw [← mkCmd_fields c] at h ⊢
    obtain ⟨hw, he⟩ := reencodes_of_decodeCmd h
    refine ⟨hw, fun c' d' hc => ?_, nofun, nofun, nofun, nofun⟩
    cases hc
    exact he
  | rx t =>
    cases ht : t.getLsbD 8 with
    | false =>
      obtain rfl := Except.ok.inj ((decode_rx_of_byte ht).symm.trans h)
      refine ⟨rfl, nofun, fun t' hc _ => ?_, fun t' hc ht' => ?_, nofun, nofun⟩ <;> cases hc
      · exact congrArg Stim.rx (append_low_of_not_eos ht)
      · cases ht.symm.trans ht'
    | true =>
      obtain rfl := Except.ok.inj ((decode_rx_of_eos ht).symm.trans h)
      refine ⟨rfl, nofun, fun t' hc ht' => ?_, fun _ _ _ => rfl, nofun, nofun⟩
      cases hc
      cases ht.symm.trans ht'
  | aux a =>
    cases h
    exact ⟨rfl, nofun, nofun, nofun, fun _ ha => ha ▸ rfl, nofun⟩
  | strobe k v =>
    obtain ⟨rfl, rfl⟩ := level_of_decode_strobe h
    exact ⟨by cases k <;> rfl, nofun, nofun, nofun, nofun, fun k' v' hk => (encode_strobeInstr k).trans hk⟩

/-! ### Commands that do not decode -/

theorem zeroImm_isError {imm : Byte} {i : Instr} : (∃ e, zeroImm imm i = .error e) ↔ imm.toNat ≠ 0 := by
  unfold zeroImm
  split <;> simp_all [← BitVec.toNat_inj]

theorem countImm_isError {imm : Byte} {i : Instr} :
    (∃ e, countImm imm i = .error e) ↔ imm.toNat = 0 ∨ 8 < imm.toNat := by
  have hn := legalCount_iff imm.toNat
  unfold countImm
  split <;> simp_all <;> omega

/-- The grounds of R97, one for each way an opcode treats its `imm8`. -/
theorem decodeCmd_isError_iff (op imm : Byte) (d : Quad) :
    (∃ e, decodeCmd (mkCmd op imm) d = .error e) ↔
      (op.toNat ∉ opcodes ∨ (op.toNat ∉ [0x04, 0x11, 0x21, 0x25] ∧ imm.toNat ≠ 0) ∨
        (op.toNat ∈ [0x11, 0x25] ∧ (imm.toNat = 0 ∨ 8 < imm.toNat))) := by
  have ha := decodeCmd_answer op imm d
  generalize decodeCmd (mkCmd op imm) d = r at ha
  cases ha with
  | zero hop himm =>
    rw [zeroImm_isError]
    simp only [List.mem_cons, List.not_mem_nil, or_false] at himm ⊢
    tauto
  | operand hop =>
    simp only [opcodes, List.mem_cons, List.not_mem_nil, or_false, reduceCtorEq, exists_false, false_iff] at hop ⊢
    omega
  | count hop =>
    rw [countImm_isError]
    simp only [opcodes, List.mem_cons, List.not_mem_nil, or_false] at hop ⊢
    omega
  | reserved hop => exact iff_of_true ⟨_, rfl⟩ (.inl hop)

/-- A word that is no instruction is taken from its source and rejected (R97). -/
theorem step_of_rejected {s : State} {l : Line} {ls : List Line} {w : Stim} {e : DecodeError}
    (hs : s.ports.schedule = l :: ls) (hp : presented s.ports l = some w) (hr : lineReady s l = true)
    (hd : decode w = .error e) :
    step s = rejectStim w { s with ports := taken { s.ports with schedule := ls } l } := by
  simp only [step, fetch_of_ready hs hp hr, hd]

/-- Settles O4: the grounds of R97, and the step of a rejected host command. -/
theorem illegalCommandsChangeNothing : Obligations.IllegalCommandsChangeNothing := by
  refine fun c d => ⟨?_, fun ⟨e, hd⟩ s ls q hs hq => ?_⟩
  · have h := decodeCmd_isError_iff (opField c) (immField c) d
    rw [mkCmd_fields] at h
    exact h
  · have hstep := step_of_rejected hs (w := .cmd c d) (by simp [presented, hq]) rfl hd
    simpa [rejectStim, State.answer, taken, hq] using hstep

end Sys2Proof.Machine

/-! ### One byte through the deframer, forward -/

namespace Sys2Proof.Machine

/-- A byte on a port that is ready goes through the deframer, the idle count cleared (R122). -/
theorem exec_rxByte_of_ready {s t : State} {b : Byte} (ha : s.armed = true) (hv : s.ungetV = false)
    (hd : deframe b { s with idleCnt := 0 } = .ok t) : exec (.rxByte b) s = .next t := by
  have hr : rxReady s = true := rxReady_iff.2 ⟨ha, hv⟩
  simp only [exec, execRxByte, hr, if_true, hd, finish_ok]

/-- A sequence goes on from the next state of its first instruction. -/
theorem execAll_cons_of_next {i : Instr} {s t : State} (h : exec i s = .next t) (is : List Instr) :
    execAll (i :: is) s = execAll is t := by
  simp only [execAll, h]

theorem deframe_marker_of_start {s : State} (h : s.rxState = .start) :
    deframe startMarker s = .ok { s with rxState := .awaitId } := by
  simp [deframe, h]

theorem deframe_identifier {s : State} {b : Byte} (h : s.rxState = .awaitId) (hm : b ≠ startMarker)
    (ht : b ≠ terminator) (hc : 0 < s.cfg.rxCap) : deframe b s = .ok
      { s with rbuf := s.rbuf.write 0 b, rlen := 1, s2 := zext16 b, resValid := false, rxState := .awaitData } := by
  simp only [deframe, h, hm, ht, if_false, beginFrame, writeRbuf_eq_ok.2 ⟨hc, rfl⟩]

theorem deframe_escape {s : State} (h : s.rxState = .awaitData) :
    deframe startMarker s = .ok { s with rxState := .awaitEsc } := by
  simp [deframe, h]

/-- A body byte that fits is appended (R125, R129), and so is a start marker behind an escape (R127). -/
theorem deframe_body {s : State} {b : Byte}
    (h : s.rxState = .awaitData ∧ b ≠ startMarker ∨ s.rxState = .awaitEsc ∧ b = startMarker)
    (hc : s.rlen.toNat < s.cfg.rxCap) : deframe b s = .ok
      { s with
        rbuf := s.rbuf.write s.rlen.toNat b, rlen := s.rlen + 1
        s0 := s.s1, s1 := s.s2, s2 := s.s2 + zext16 b, rxState := .awaitData } := by
  rcases h with ⟨hs, hm⟩ | ⟨hs, rfl⟩
  · simp only [deframe, hs, hm, if_false, bodyAppend_of_lt hc]
  · simp only [deframe, hs, if_true, bodyAppend_of_lt hc]

theorem deframe_terminator {s : State} (h : s.rxState = .awaitEsc) : deframe terminator s = complete false s := by
  have hne : terminator ≠ startMarker := by decide
  simp only [deframe, h, hne, if_false, if_true]

/-! ### The completion of a frame -/

/-- The two bytes of a 16-bit value, big-endian (R13). -/
theorem be_pair_eq_iff {w : Half} {hi lo : Byte} :
    be [hi, lo] = w.toNat ↔ w.extractLsb' 0 8 = lo ∧ w.extractLsb' 8 8 = hi := by
  simp only [be, ← BitVec.toNat_inj, BitVec.extractLsb'_toNat, Nat.shiftRight_eq_div_pow, List.length_cons,
    List.length_nil]
  omega

/-- A list of two elements or more ends with two. -/
theorem exists_eq_append_pair {α : Type} {l : List α} (h : 2 ≤ l.length) : ∃ as x y, l = as ++ [x, y] := by
  have hdrop : (l.drop (l.length - 2)).length = 2 := by
    rw [List.length_drop]
    omega
  obtain ⟨x, y, hxy⟩ := List.length_eq_two.1 hdrop
  exact ⟨l.take (l.length - 2), x, y, by rw [← hxy, List.take_append_drop]⟩

/-- In a frame in progress the completion finds the payload's checksum claim in the delay line (R133, R134). -/
theorem DelayLine.complete_eq {s : State} (h : DelayLine s) (hf : inFrame s) {p : List Byte}
    (hp : p.length = s.rlen.toNat) (hh : holds s.rbuf 0 p) (hc : s.rlen.toNat ≤ s.cfg.rxCap) (forced : Bool) :
    complete forced s = .ok (s.setResult .frame s.rlen (checksumClaim p) forced) := by
  by_cases h2 : 2 < p.length
  · obtain ⟨p', hp', -, hh', -, -, hs0⟩ := h hf
    obtain rfl : p' = p := holds_inj hh' hh (hp'.trans hp.symm)
    obtain ⟨q, hi, lo, rfl⟩ := exists_eq_append_pair h2.le
    have hlen : (q ++ [hi, lo]).length = q.length + 2 := by simp
    obtain ⟨-, hpair⟩ := holds_append.1 hh
    obtain ⟨hhi, hlo⟩ := holds_cons.1 hpair
    replace hlo := (holds_cons.1 hlo).1
    have hr1 : readRbuf s (s.rlen.toNat - 1) = .ok lo :=
      readRbuf_eq_ok.2 ⟨by omega, by rw [← hlo]; congr 1; omega⟩
    have hr2 : readRbuf s (s.rlen.toNat - 2) = .ok hi :=
      readRbuf_eq_ok.2 ⟨by omega, by rw [← hhi]; congr 1; omega⟩
    have hclaim : checksumClaim (q ++ [hi, lo]) =
        (decide (s.s0.extractLsb' 0 8 = lo) && decide (s.s0.extractLsb' 8 8 = hi)) := by
      have hsum : byteSum q = s.s0 := by simpa using (hs0 h2).symm
      have hpos : 2 < q.length + 2 := hlen ▸ h2
      rw [checksumClaim, hlen, Nat.add_sub_cancel, List.drop_left, List.take_left, hsum]
      simp [hpos, be_pair_eq_iff]
    rw [complete, if_pos (by omega)]
    simp only [hr1, hr2, hclaim]
  · have hclaim : checksumClaim p = false := by simp [checksumClaim, h2]
    rw [complete, if_neg (by omega), hclaim]

/-! ### The wire form -/

theorem RxOnly.eq_withRx {s t : State} (h : RxOnly s t) : t = State.withRx t s := by
  obtain ⟨_, _, _, _, _, _, _, _, _, _, _, _, _, _⟩ := h
  cases s
  cases t
  simp_all [State.withRx]

/-- The deframer has come from `s` to `u`, where a frame is in progress with `q` as its payload so far. -/
structure Receiving (s : State) (q : List Byte) (u : State) : Prop where
  armed : u.armed = true
  noReplay : u.ungetV = false
  inBody : inFrame u
  length : q.length = u.rlen.toNat
  payload : holds u.rbuf 0 q
  delay : DelayLine u
  rxOnly : RxOnly s u

/-- Neither the idle count nor a move between the two states of a frame loses what was received. -/
theorem Receiving.moves {s u : State} {q : List Byte} (h : Receiving s q u) {r : RxState}
    (hr : r = .awaitData ∨ r = .awaitEsc) : Receiving s q { u with idleCnt := 0, rxState := r } :=
  { h with
    inBody := hr
    delay := fun _ => h.delay h.inBody
    rxOnly := { h.rxOnly with } }

theorem Receiving.clearIdle {s u : State} {q : List Byte} (h : Receiving s q u) :
    Receiving s q { u with idleCnt := 0 } :=
  h.moves h.inBody

theorem Receiving.length_le {s u : State} {q : List Byte} (h : Receiving s q u) (hfit : q.length ≤ s.cfg.rxCap) :
    u.rlen.toNat ≤ u.cfg.rxCap := by
  rwa [h.rxOnly.cfg, ← h.length]

/-- A marker and an identifier begin a frame whose payload is the identifier (R123, R126). -/
theorem receives_identifier {s : State} {b : Byte} (ha : s.armed = true) (hv : s.ungetV = false)
    (hs : s.rxState = .start) (hm : b ≠ startMarker) (ht : b ≠ terminator) (hc : 0 < s.cfg.rxCap) :
    ∃ u, execAll ([startMarker, b].map .rxByte) s = .next u ∧ Receiving s [b] u ∧ u.rxState = .awaitData := by
  have hopen := exec_rxByte_of_ready ha hv (deframe_marker_of_start (s := { s with idleCnt := 0 }) hs)
  have hid := exec_rxByte_of_ready (s := { s with idleCnt := 0, rxState := .awaitId }) ha hv
    (deframe_identifier rfl hm ht hc)
  refine ⟨_, (execAll_cons_of_next hopen _).trans (execAll_cons_of_next hid _), ?_, rfl⟩
  refine ⟨ha, hv, .inl rfl, rfl, holds_write_same s.rbuf 0 b, delayLine_begin _ b, ?_⟩
  constructor <;> rfl

/-- A byte that the frame in progress takes as payload is appended (R129). -/
theorem Receiving.append {s u : State} {q : List Byte} {b : Byte} (h : Receiving s q u)
    (hb : u.rxState = .awaitData ∧ b ≠ startMarker ∨ u.rxState = .awaitEsc ∧ b = startMarker)
    (hfit : q.length < s.cfg.rxCap) (hcap : s.cfg.rxCap ≤ 65535) :
    ∃ u', exec (.rxByte b) u = .next u' ∧ Receiving s (q ++ [b]) u' ∧ u'.rxState = .awaitData := by
  have hroom : u.rlen.toNat < u.cfg.rxCap := by rwa [h.rxOnly.cfg, ← h.length]
  have hlen : (u.rlen + 1).toNat = u.rlen.toNat + 1 := toNat_succ_of_lt hroom (h.rxOnly.cfg ▸ hcap)
  refine ⟨_, exec_rxByte_of_ready h.armed h.noReplay (deframe_body hb hroom), ?_, rfl⟩
  exact
    { armed := h.armed
      noReplay := h.noReplay
      inBody := .inl rfl
      length := by rw [List.length_append, h.length, hlen]; rfl
      payload := holds_append.2 ⟨holds_write_of_ne h.payload (.inl ((Nat.zero_add _).trans h.length).le), by
        rw [Nat.zero_add, h.length]
        exact holds_write_same u.rbuf _ b⟩
      delay := h.clearIdle.delay.append h.inBody hlen b
      rxOnly := { h.rxOnly with } }

/-- The wire bytes of one payload byte are read as that byte (R105, R125, R127). -/
theorem Receiving.stuffByte {s u : State} {q : List Byte} (h : Receiving s q u) (hs : u.rxState = .awaitData)
    (b : Byte) (hfit : q.length < s.cfg.rxCap) (hcap : s.cfg.rxCap ≤ 65535) :
    ∃ u', execAll ((Machine.stuffByte b).map .rxByte) u = .next u' ∧ Receiving s (q ++ [b]) u' ∧
      u'.rxState = .awaitData := by
  by_cases hb : b = startMarker
  · have hesc := exec_rxByte_of_ready h.armed h.noReplay (deframe_escape (s := { u with idleCnt := 0 }) hs)
    obtain ⟨u', hu', hr⟩ := (h.moves (.inr rfl)).append (.inr ⟨rfl, hb⟩) hfit hcap
    subst hb
    exact ⟨u', (execAll_cons_of_next hesc _).trans (execAll_cons_of_next hu' _), hr⟩
  · obtain ⟨u', hu', hr⟩ := h.append (.inl ⟨hs, hb⟩) hfit hcap
    refine ⟨u', ?_, hr⟩
    rw [Machine.stuffByte, if_neg hb]
    exact execAll_cons_of_next hu' _

/-- The stuffed bytes of the rest of a payload are read as that rest (R105). -/
theorem Receiving.stuff {s u : State} {q p : List Byte} (h : Receiving s q u) (hs : u.rxState = .awaitData)
    (hfit : q.length + p.length ≤ s.cfg.rxCap) (hcap : s.cfg.rxCap ≤ 65535) :
    ∃ u', execAll ((Machine.stuff p).map .rxByte) u = .next u' ∧ Receiving s (q ++ p) u' ∧
      u'.rxState = .awaitData := by
  induction p generalizing q u with
  | nil => exact ⟨u, rfl, by rwa [List.append_nil], hs⟩
  | cons b p ih =>
    rw [List.length_cons] at hfit
    obtain ⟨v, hv, hrv, hsv⟩ := h.stuffByte hs b (by omega) hcap
    obtain ⟨w, hw, hrw⟩ := ih hrv hsv (by simp; omega)
    refine ⟨w, ?_, by simpa using hrw⟩
    rw [stuff_cons, List.map_append, execAll_append hv, hw]

/-- The end of the wire form delivers the payload received (R127, R133). -/
theorem Receiving.complete {s u : State} {p : List Byte} (h : Receiving s p u) (hs : u.rxState = .awaitData)
    (hfit : p.length ≤ s.cfg.rxCap) :
    ∃ v, Receiving s p v ∧ execAll ([startMarker, terminator].map .rxByte) u =
      .next (v.setResult .frame v.rlen (checksumClaim p) false) := by
  have hesc := exec_rxByte_of_ready h.armed h.noReplay (deframe_escape (s := { u with idleCnt := 0 }) hs)
  have hv := h.moves (r := .awaitEsc) (.inr rfl)
  have hdone := hv.delay.complete_eq hv.inBody hv.length hv.payload (hv.length_le hfit) false
  have hend := exec_rxByte_of_ready hv.armed hv.noReplay ((deframe_terminator rfl).trans hdone)
  exact ⟨_, hv, (execAll_cons_of_next hesc _).trans (execAll_cons_of_next hend _)⟩

theorem RxOnly.setResult {s t : State} (h : RxOnly s t) (k : ResKind) (n : Half) (v f : Bool) :
    RxOnly s (t.setResult k n v f) :=
  { h with }

/-- Settles O24: the marker and the identifier begin the frame, the stuffed rest is appended, the end delivers it. -/
theorem deframerReadsTheWireForm : Obligations.DeframerReadsTheWireForm := by
  intro s p ha hv hs hpos hfit hcap hm ht
  cases p with
  | nil => simp at hpos
  | cons b p =>
    replace hm : b ≠ startMarker := fun h => hm (congrArg some h)
    replace ht : b ≠ terminator := fun h => ht (congrArg some h)
    rw [List.length_cons] at hfit
    obtain ⟨u, hu, hru, hsu⟩ := receives_identifier ha hv hs hm ht (by omega)
    obtain ⟨w, hw, hrw, hsw⟩ := hru.stuff (p := p) hsu (by simp; omega) hcap
    obtain ⟨x, hx, hend⟩ := hrw.complete hsw (by simp; omega)
    have hwire : wireFrame (b :: p) = [startMarker, b] ++ (stuff p ++ [startMarker, terminator]) := by
      simp [wireFrame, stuffByte, hm]
    have hrun : execAll ((wireFrame (b :: p)).map .rxByte) s =
        .next (x.setResult .frame x.rlen (checksumClaim (b :: p)) false) := by
      rw [hwire, List.map_append, execAll_append hu, List.map_append, execAll_append hw]
      exact hend
    have hkept := hx.rxOnly.setResult .frame x.rlen (checksumClaim (b :: p)) false
    exact ⟨_, hrun, hx.payload, hx.length.symm, rfl, hx.length.symm, rfl, rfl, rfl, rfl, rfl, hkept.clen, hkept.coff,
      hkept.eq_withRx⟩

end Sys2Proof.Machine

/-! ### Bytes that end or leave a frame, forward -/

namespace Sys2Proof.Machine

/-- Outside a frame any byte but a start marker is noise (R123). -/
theorem deframe_noise {s : State} {b : Byte} (h : s.rxState = .start) (hm : b ≠ startMarker) :
    deframe b s = .ok s := by
  simp only [deframe, h, hm, if_false]

theorem deframe_marker_of_awaitId {s : State} (h : s.rxState = .awaitId) : deframe startMarker s = .ok s := by
  simp only [deframe, h, if_true]

theorem deframe_terminator_of_awaitId {s : State} (h : s.rxState = .awaitId) :
    deframe terminator s = .ok { s with rxState := .start } := by
  have hne : terminator ≠ startMarker := by decide
  simp only [deframe, h, hne, if_false, if_true]

/-- A body byte that does not fit ends the get_frame (R130), and so does a start marker behind an escape. -/
theorem deframe_overflow {s : State} {b : Byte}
    (h : s.rxState = .awaitData ∧ b ≠ startMarker ∨ s.rxState = .awaitEsc ∧ b = startMarker)
    (hc : s.rlen.toNat = s.cfg.rxCap) : deframe b s = .ok (tooLong s) := by
  rcases h with ⟨hs, hm⟩ | ⟨hs, rfl⟩
  · simp only [deframe, hs, hm, if_false, bodyAppend_of_full hc]
  · simp only [deframe, hs, if_true, bodyAppend_of_full hc]

theorem deframe_violation {s : State} {b : Byte} (h : s.rxState = .awaitEsc) (hm : b ≠ startMarker)
    (ht : b ≠ terminator) : deframe b s = .ok (violation b s) := by
  simp only [deframe, h, hm, ht, if_false]

/-! ### The two ways to complete a frame -/

/-- A payload of 2 bytes or fewer makes no checksum claim (R133). -/
theorem complete_of_le {s : State} (h : s.rlen.toNat ≤ 2) (forced : Bool) :
    complete forced s = .ok (s.setResult .frame s.rlen false forced) :=
  if_neg (Nat.not_lt.2 h)

/-- A longer payload claims that its last two bytes are `s0` (R133). -/
theorem complete_of_lt {s : State} {lo hi : Byte} (h : 2 < s.rlen.toNat) (hc : s.rlen.toNat ≤ s.cfg.rxCap)
    (hlo : s.rbuf.read (s.rlen.toNat - 1) = some lo) (hhi : s.rbuf.read (s.rlen.toNat - 2) = some hi)
    (forced : Bool) : complete forced s = .ok (s.setResult .frame s.rlen
      (decide (s.s0.extractLsb' 0 8 = lo ∧ s.s0.extractLsb' 8 8 = hi)) forced) := by
  have hr1 : readRbuf s (s.rlen.toNat - 1) = .ok lo := readRbuf_eq_ok.2 ⟨by omega, hlo⟩
  have hr2 : readRbuf s (s.rlen.toNat - 2) = .ok hi := readRbuf_eq_ok.2 ⟨by omega, hhi⟩
  simp only [complete, h, if_true, hr1, hr2, Bool.decide_and]

/-- `i` completes the frame in progress: a terminator behind an escape, or the tick at the idle limit (R127, R236). -/
def Completes (s : State) (i : Instr) (forced : Bool) : Prop :=
  i = .rxByte terminator ∧ s.rxState = .awaitEsc ∧ forced = false ∨
  i = .tick ∧ inFrame s ∧ s.cfg.idleLimit ≤ s.idleCnt.toNat + 1 ∧ forced = true

/-- The tick at the idle limit runs the completion, forced (R236). -/
theorem exec_tick_of_expired {s t : State} (ha : s.armed = true) (hf : inFrame s)
    (hl : s.cfg.idleLimit ≤ s.idleCnt.toNat + 1) (hc : complete true { s with idleCnt := 0 } = .ok t) :
    exec .tick s = .next t := by
  have hexp : ¬ s.idleCnt.toNat + 1 < s.cfg.idleLimit := Nat.not_lt.2 hl
  rw [exec, execTick, if_pos ha, if_neg hexp, hc, finish_ok]
  rcases hf with hs | hs
  · simp only [hs]
  · simp only [hs]

/-- Both ways end in what the completion answers, the idle count cleared. -/
theorem Completes.exec_eq {s t : State} {i : Instr} {forced : Bool} (h : Completes s i forced) (ha : s.armed = true)
    (hv : s.ungetV = false) (hc : complete forced { s with idleCnt := 0 } = .ok t) : exec i s = .next t := by
  rcases h with ⟨rfl, hs, rfl⟩ | ⟨rfl, hf, hl, rfl⟩
  · exact exec_rxByte_of_ready ha hv ((deframe_terminator (s := { s with idleCnt := 0 }) hs).trans hc)
  · exact exec_tick_of_expired ha hf hl hc

theorem Completes.inFrame {s : State} {i : Instr} {forced : Bool} (h : Completes s i forced) : inFrame s := by
  rcases h with ⟨-, hs, -⟩ | ⟨-, hf, -⟩
  · exact .inr hs
  · exact hf

/-- A frame in progress belongs to a get_frame (R52). -/
theorem Inv.armed_of_inFrame {s : State} (h : Inv s) (hf : inFrame s) : s.armed = true := by
  by_contra ha
  obtain ⟨hs, -⟩ := h.disarmed (Bool.eq_false_iff.2 ha)
  simp [inFrame, hs] at hf

/-- The checksum claim, clause by clause (R134). -/
theorem checksumClaim_iff {p : List Byte} : checksumClaim p = true ↔
    3 ≤ p.length ∧ be (p.drop (p.length - 2)) = (byteSum (p.take (p.length - 2))).toNat := by
  simp only [checksumClaim, Bool.and_eq_true, decide_eq_true_eq, Nat.succ_le_iff]

/-- The oldest slot of the delay line is the sum of all but the last two bytes of the payload held (R134). -/
theorem DelayLine.s0_eq {s : State} (h : DelayLine s) (hf : inFrame s) {p : List Byte}
    (hp : p.length = s.rlen.toNat) (hh : holds s.rbuf 0 p) (h3 : 3 ≤ p.length) :
    s.s0 = byteSum (p.take (p.length - 2)) := by
  obtain ⟨p', hp', -, hh', -, -, hs0⟩ := h hf
  obtain rfl : p' = p := holds_inj hh' hh (hp'.trans hp.symm)
  exact hs0 h3

/-! ### The deframer's statements -/

/-- Settles O19: an escape, an append or an overflow, the idle count cleared. -/
theorem bodyBytesAreAppendedOrOverflow : Obligations.BodyBytesAreAppendedOrOverflow := by
  intro s b ha hv
  refine ⟨fun hs => exec_rxByte_of_ready ha hv (deframe_escape hs), fun hb => ⟨fun hlt => ?_, fun hfull => ?_⟩⟩
  · refine ⟨s.rbuf.write s.rlen.toNat b, ?_, Memory.read_write_same _ _ _,
      fun a hne => Memory.read_write_other _ b hne⟩
    exact exec_rxByte_of_ready ha hv (deframe_body (s := { s with idleCnt := 0 }) hb hlt)
  · exact exec_rxByte_of_ready ha hv (deframe_overflow (s := { s with idleCnt := 0 }) hb hfull)

/-- Settles O20: both ways run the completion, which answers by the length of the payload. -/
theorem completionDeliversTheFrame : Obligations.CompletionDeliversTheFrame := by
  intro s i forced ha hv hend
  have hcompletes : Completes s i forced := hend
  refine ⟨fun hshort => ?_, fun lo hi hlong hcap hlo hhi => ?_⟩
  · exact hcompletes.exec_eq ha hv (complete_of_le hshort forced)
  · exact hcompletes.exec_eq ha hv (complete_of_lt hlong hcap hlo hhi forced)

/-- Settles O22: the byte is no marker and meets START, where it is noise. -/
theorem replayChangesOnlyUngetV : Obligations.ReplayChangesOnlyUngetV := by
  intro s h hv
  obtain ⟨-, hs, hm, -⟩ := h.ungetState hv
  have hnoise : deframe s.ungetB { s with ungetV := false } = .ok { s with ungetV := false } := deframe_noise hs hm
  simp only [exec, execReplay, hv, if_true, hnoise, finish_ok]

/-- Settles O23: the completion finds the checksum claim of the payload in the delay line. -/
theorem validityIsTheChecksumClaim : Obligations.ValidityIsTheChecksumClaim := by
  intro s i p h hd hi hp hh
  obtain ⟨forced, hcompletes⟩ : ∃ forced, Completes s i forced := by
    rcases hi with ⟨rfl, -, -, hs⟩ | ⟨rfl, hf, hl⟩
    · exact ⟨false, .inl ⟨rfl, hs, rfl⟩⟩
    · exact ⟨true, .inr ⟨rfl, hf, hl, rfl⟩⟩
  have hf := hcompletes.inFrame
  have hd' : DelayLine { s with idleCnt := 0 } := hd
  have hdone := hcompletes.exec_eq (h.armed_of_inFrame hf) (h.noReplay_of_inFrame hf)
    (hd'.complete_eq hf hp hh h.rlenLe forced)
  exact ⟨_, hdone, rfl, rfl, rfl, hd.s0_eq hf hp hh, checksumClaim_iff⟩

/-- Settles O7, stimulus by stimulus. -/
theorem disabledStimuliAndIllegalCountsChangeNothing :
    Obligations.DisabledStimuliAndIllegalCountsChangeNothing := by
  intro s b n v
  refine ⟨fun h => ?_, fun ha => ?_, fun hb => ?_, fun hv => ?_, fun hn => ?_⟩
  · have hr : rxReady s = false := by simpa only [rxReady, Bool.and_eq_false_iff, Bool.not_eq_false'] using h
    simp [exec, execRxByte, execRxEos, hr]
  · simp [exec, execAuxByte, auxReady, ha]
  · simp [exec, execTxAccept, execTxFail, txValid, hb]
  · simp [exec, execReplay, hv]
  · have hl : legalCount n = false := by
      rw [Bool.eq_false_iff, ne_eq, legalCount_iff]
      omega
    simp [exec, execGetBytes, execTxPutN, hl]

/-- Settles O16: a marker opens a frame, and noise leaves the state at START. -/
theorem rxByteInStart : Obligations.RxByteInStart := by
  intro s b ha hv hs
  by_cases hb : b = 0x10#8
  · subst hb
    exact exec_rxByte_of_ready ha hv (deframe_marker_of_start hs)
  · rw [if_neg hb, ← hs]
    exact exec_rxByte_of_ready ha hv (deframe_noise hs hb)

/-- Settles O17, marker by marker. -/
theorem markersInAwaitId : Obligations.MarkersInAwaitId := by
  intro s ha hv hs
  exact ⟨exec_rxByte_of_ready ha hv (deframe_marker_of_awaitId hs),
    exec_rxByte_of_ready ha hv (deframe_terminator_of_awaitId hs)⟩

/-- Settles O18: the identifier is written at index 0, and no other index. -/
theorem identifierStartsAFrame : Obligations.IdentifierStartsAFrame := by
  intro s b ha hv hs hcap hm ht
  refine ⟨s.rbuf.write 0 b, ?_, Memory.read_write_same _ _ _, fun a hne => Memory.read_write_other _ b hne⟩
  exact exec_rxByte_of_ready ha hv (deframe_identifier (s := { s with idleCnt := 0 }) hs hm ht hcap)

/-- Settles O21: a byte that may not follow an escape is a violation. -/
theorem violationDiscardsSilently : Obligations.ViolationDiscardsSilently := by
  intro s b ha hv hs hm ht
  exact exec_rxByte_of_ready ha hv (deframe_violation (s := { s with idleCnt := 0 }) hs hm ht)

end Sys2Proof.Machine

/-! ### The TX write, forward -/

namespace Sys2Proof.Machine

/-- A command that is one tx_write puts its wire bytes at `tbuf[tlen ..]`, or answers why not (R161). -/
theorem writesWire_of_txCmd {i : Instr} {s : State} {v p w : List Byte} {acc : Bool}
    (he : exec i s = txCmd v p acc w s) : WritesWire i s (txWire v p w) (if acc then byteSum p else 0) := by
  simp only [WritesWire, he, txCmd, respond_eq]
  refine ⟨fun hb => ?busy, fun hb ho => ?overflowed, fun hb ho hfull => ?full, fun hb ho hfit => ?fits⟩
  case busy => simp [txWrite, hb]
  case overflowed => simp [txWrite, hb, ho]
  case full => simp [txWrite, hb, ho, hfull]
  case fits =>
    refine ⟨s.tbuf.writeList s.tlen.toNat (txWire v p w), ?_, holds_writeList _ _ _, fun a ha => ?_⟩
    · cases acc <;> simp [txWrite, hb, ho, Nat.not_lt.2 hfit]
    · rw [Memory.read_writeList, if_neg (by omega)]

/-- The bytes of a value, by their place in it (R13). -/
theorem bytesBe_eq_map_range {k : Nat} (v : BitVec k) (n : Nat) :
    bytesBe v n = (List.range n).map (fun j => v.extractLsb' (8 * (n - 1 - j)) 8) := by
  induction n with
  | zero => rfl
  | succ n ih =>
    rw [bytesBe, ih, List.range_succ_eq_map, List.map_cons, List.map_map]
    congr 1
    refine List.map_congr_left fun j _ => ?_
    rw [Function.comp_apply, show n + 1 - 1 - (j + 1) = n - 1 - j by omega]

/-- A put command is one tx_write of its bytes, stuffed and summed (R163 to R167). -/
theorem exec_put {i : Instr} {p : List Byte} (h : putBytes i = some p) (s : State) :
    exec i s = txCmd [] p true [] s := by
  cases i with
  | txPut8 | txPut16 | txPut32 => cases h; rfl
  | txPut64 v =>
    cases h
    exact congrArg (txCmd [] · true [] s) (bytesBe_eq_map_range v 8)
  | txPutN n v =>
    rw [putBytes] at h
    split at h
    · next hn =>
      cases h
      rw [exec, execTxPutN, if_pos hn, bytesBe_eq_map_range]
    · cases h
  | _ => cases h

/-- A put writes its bytes stuffed, with nothing verbatim around them. -/
theorem writesWire_put {i : Instr} {p : List Byte} (h : putBytes i = some p) (s : State) :
    WritesWire i s (stuff p) (byteSum p) := by
  simpa [txWire] using writesWire_of_txCmd (exec_put h s)

/-- TX_COMMAND writes a start marker and the stuffed identifier (R170). -/
theorem writesWire_txCommand (id : BitVec 16) (s : State) :
    WritesWire (.txCommand id) s (startMarker :: stuff (idBytes id))
      (if s.cfg.txSumIncludesId then byteSum (idBytes id) else 0) := by
  have h := writesWire_of_txCmd (i := .txCommand id) (s := s) rfl
  rwa [txWire, List.append_nil] at h

/-- TX_CHECKSUM writes the two stuffed bytes of the running sum (R168). -/
theorem writesWire_txChecksum (s : State) :
    WritesWire .txChecksum s (stuff [s.tsum.extractLsb' 8 8, s.tsum.extractLsb' 0 8])
      (byteSum [s.tsum.extractLsb' 8 8, s.tsum.extractLsb' 0 8]) := by
  have h := writesWire_of_txCmd (i := .txChecksum) (s := s) rfl
  rwa [txWire, List.append_nil] at h

/-- TX_CLOSE writes the terminator sequence (R169). -/
theorem writesWire_txClose (s : State) : WritesWire .txClose s [startMarker, terminator] 0 :=
  writesWire_of_txCmd (i := .txClose) (s := s) rfl

theorem byteSum_singleton (a : Byte) : byteSum [a] = zext16 a := by simp

theorem byteSum_pair (a b : Byte) : byteSum [a, b] = zext16 a + zext16 b := by simp

/-- The high byte of an identifier is zero just below 0x100. -/
theorem highByte_eq_zero_iff {id : BitVec 16} : id.extractLsb' 8 8 = 0 ↔ id.toNat < 256 := by
  have hlt := id.isLt
  have hzero : (0 : Byte).toNat = 0 := rfl
  rw [← BitVec.toNat_inj, BitVec.extractLsb'_toNat, Nat.shiftRight_eq_div_pow, hzero]
  omega

/-- An identifier below 0x100 is one byte (R170). -/
theorem idBytes_of_lt {id : BitVec 16} (h : id.toNat < 256) : idBytes id = [id.setWidth 8] := by
  rw [idBytes, if_pos (highByte_eq_zero_iff.2 h), BitVec.setWidth_eq_extractLsb' (by decide)]

/-- Any other is its high byte and its low byte (R170). -/
theorem idBytes_of_le {id : BitVec 16} (h : 256 ≤ id.toNat) : idBytes id = [id.extractLsb' 8 8, id.setWidth 8] := by
  rw [idBytes, if_neg (mt highByte_eq_zero_iff.1 h.not_gt), BitVec.setWidth_eq_extractLsb' (by decide)]

theorem idBytes_ne_nil (id : BitVec 16) : idBytes id ≠ [] := by
  unfold idBytes
  split <;> simp

/-! ### The commands of the TX framer -/

/-- Settles O36: the two branches of R162. -/
theorem txOpenStartsAFrame : Obligations.TxOpenStartsAFrame :=
  fun _ => ⟨fun hb => if_pos hb, fun hb => if_neg (Bool.eq_false_iff.1 hb)⟩

/-- Settles O38: a put is one tx_write, and the decoder checks the count of TX_PUTN. -/
theorem putsWriteStuffedBytes : Obligations.PutsWriteStuffedBytes := by
  refine ⟨fun s i p hp => writesWire_put hp s, fun n d hn => ?_⟩
  have hl : legalCount n.toNat = false := by
    rw [Bool.eq_false_iff, ne_eq, legalCount_iff]
    rcases hn with rfl | hn
    · decide
    · omega
  have hop : (opField (mkCmd 0x25#8 n)).toNat = 0x25 := by rw [opField_mkCmd]; rfl
  change decodeCmd (mkCmd 0x25#8 n) d = _
  simp only [decodeCmd, hop, immField_mkCmd, countImm, hl, Bool.false_eq_true, if_false]

/-- Settles O39: the two bytes of the running sum are put like any others. -/
theorem checksumAppendsTheRunningSum : Obligations.ChecksumAppendsTheRunningSum := by
  intro s
  have h := writesWire_txChecksum s
  rwa [byteSum_pair] at h

/-- Settles O40: TX_CLOSE is one tx_write of verbatim bytes. -/
theorem closeAppendsTheTerminator : Obligations.CloseAppendsTheTerminator :=
  writesWire_txClose

/-- Settles O41: the identifier is one byte or two. -/
theorem commandWritesTheHeader : Obligations.CommandWritesTheHeader := by
  intro s id
  have h := writesWire_txCommand id s
  refine ⟨fun hlt => ?_, fun hle => ?_⟩
  · rw [idBytes_of_lt hlt, byteSum_singleton] at h
    exact h
  · rw [idBytes_of_le hle, byteSum_pair] at h
    exact h

/-! ### The read pointer of the send -/

/-- What fits behind `tlen` moves it on by its length, without a wrap (R161). -/
theorem toNat_add_ofNat_of_le {x : Half} {k n : Nat} (hfit : x.toNat + k ≤ n) (hn : n ≤ 65535) :
    (x + BitVec.ofNat 16 k).toNat = x.toNat + k := by
  rw [BitVec.toNat_add, BitVec.toNat_ofNat]
  omega

/-- A tx_write leaves `tx_ptr` and does not shorten the frame (R161). -/
theorem txPtr_le_tlen_txCmd {s t : State} (hcap : s.cfg.txCap ≤ 65535) (hle : s.txPtr.toNat ≤ s.tlen.toNat)
    {v p w : List Byte} {acc : Bool} (he : txCmd v p acc w s = .next t) : t.txPtr.toNat ≤ t.tlen.toNat := by
  cases he
  rcases txWrite_cases v p acc w s with ⟨-, e⟩ | ⟨-, -, e⟩ | ⟨-, -, -, e⟩ | ⟨-, -, hfit, e⟩ <;> rw [e]
  · exact hle
  · exact hle
  · exact hle
  · exact hle.trans ((Nat.le_add_right _ _).trans (toNat_add_ofNat_of_le hfit hcap).ge)

/-- TX_SEND leaves `tx_ptr` or clears it (R240). -/
theorem txPtr_le_tlen_execTxSend {s t : State} (hle : s.txPtr.toNat ≤ s.tlen.toNat) (he : execTxSend s = .next t) :
    t.txPtr.toNat ≤ t.tlen.toNat := by
  unfold execTxSend at he
  split at he
  · cases he; exact hle
  · split at he <;> cases he
    · exact hle
    · exact Nat.zero_le _

/-- TX_ACCEPT moves `tx_ptr` on from below `tlen` (R241, R51). -/
theorem txPtr_le_tlen_execTxAccept {s t : State} (h : Inv s) (hle : s.txPtr.toNat ≤ s.tlen.toNat)
    (he : execTxAccept s = .next t) : t.txPtr.toNat ≤ t.tlen.toNat := by
  unfold execTxAccept at he
  split at he
  · next hb =>
    obtain ⟨hlt, -⟩ := h.sending hb
    split at he <;> cases he
    exact (toNat_succ_of_lt hlt (h.tlenLe.trans h.txCap_le)).trans_le hlt
  · cases he; exact hle

/-- Of the commands that build or send a frame only TX_OPEN shortens it (R162). -/
theorem txPtr_le_tlen_execBuild {i : Instr} {s t : State} (h : Inv s) (hle : s.txPtr.toNat ≤ s.tlen.toNat)
    (hi : buildsFrame i = true) (he : exec i s = .next t) (hne : i ≠ .txOpen) : t.txPtr.toNat ≤ t.tlen.toNat := by
  cases i with
  | txOpen => exact absurd rfl hne
  | txSend => exact txPtr_le_tlen_execTxSend hle he
  | txPutN n v =>
    simp only [exec, execTxPutN] at he
    split at he
    · exact txPtr_le_tlen_txCmd h.txCap_le hle he
    · cases he; exact hle
  | txPut8 | txPut16 | txPut32 | txPut64 | txChecksum | txClose | txCommand =>
    exact txPtr_le_tlen_txCmd h.txCap_le hle he
  | _ => cases hi

theorem RxOnly.txPtr_le_tlen {s t : State} (h : RxOnly s t) (hle : s.txPtr.toNat ≤ s.tlen.toNat) :
    t.txPtr.toNat ≤ t.tlen.toNat := by
  rwa [h.txPtr, h.tlen]

/-- Settles O37: an effect that writes neither element keeps their order, and TX_OPEN clears the one above 0. -/
theorem txOpenLeavesTxPtrAboveTlen : Obligations.TxOpenLeavesTxPtrAboveTlen := by
  refine ⟨fun i s t h hle he hne => ?_, fun s h hb hpos => ?_⟩
  · cases exec_effect he with
    | build hi => exact txPtr_le_tlen_execBuild h hle hi he hne
    | accept => exact txPtr_le_tlen_execTxAccept h hle he
    | byte _ hd => exact (deframe_rxOnly hd).txPtr_le_tlen hle
    | replay _ hd => exact (deframe_rxOnly hd).txPtr_le_tlen hle
    | force _ _ _ hd => exact (complete_rxOnly hd).txPtr_le_tlen hle
    | reset => exact Nat.zero_le _
    | _ => exact hle
  · have he := (txOpenStartsAFrame s).2 hb
    exact ⟨_, he, h.exec he, rfl, hpos⟩

/-! ### Building a frame -/

/-- The TX framer has come from `s` to `u`, with the bytes `wire` in the frame and `sum` as its running sum; nothing
but the framer and the responses has changed. -/
structure Building (s : State) (wire : List Byte) (sum : Half) (u : State) : Prop where
  length : u.tlen.toNat = wire.length
  frame : holds u.tbuf 0 wire
  sum : u.tsum = sum
  frameOnly : u = { s with
    tbuf := u.tbuf, tlen := u.tlen, tsum := u.tsum, txOvf := false, txErr := false
    ports := { s.ports with responses := u.ports.responses } }

section Building
variable {s u : State} {wire : List Byte} {sum : Half} (h : Building s wire sum u)
include h

theorem Building.cfg : u.cfg = s.cfg := by rw [h.frameOnly]
theorem Building.txBusy : u.txBusy = s.txBusy := by rw [h.frameOnly]
theorem Building.txOvf : u.txOvf = false := by rw [h.frameOnly]

/-- A command whose wire bytes fit appends them to the frame (R161). -/
theorem Building.append {i : Instr} {w : List Byte} {k : Half} (hw : WritesWire i u w k) (hb : s.txBusy = false)
    (hcap : s.cfg.txCap ≤ 65535) (hfit : (wire ++ w).length ≤ s.cfg.txCap) :
    ∃ x, exec i u = .next x ∧ Building s (wire ++ w) (sum + k) x := by
  have hroom : u.tlen.toNat + w.length ≤ s.cfg.txCap := by rwa [h.length, ← List.length_append]
  obtain ⟨-, -, -, hwrites⟩ := hw
  obtain ⟨m, he, hm, hkept⟩ := hwrites (h.txBusy.trans hb) h.txOvf (h.cfg ▸ hroom)
  have hold : holds m 0 wire := fun j hj => (hkept _ (.inl (by rw [h.length]; omega))).trans (h.frame j hj)
  refine ⟨_, he, ?_⟩
  exact
    { length := by
        rw [List.length_append, ← h.length]
        exact toNat_add_ofNat_of_le hroom hcap
      frame := holds_append.2 ⟨hold, by rwa [Nat.zero_add, ← h.length]⟩
      sum := congrArg (· + k) h.sum
      frameOnly := by
        rw [h.frameOnly]
        rfl }

end Building

/-- TX_OPEN begins with an empty frame (R162). -/
theorem building_open {s : State} (hb : s.txBusy = false) : ∃ u, exec .txOpen s = .next u ∧ Building s [] 0#16 u :=
  ⟨_, (txOpenStartsAFrame s).2 hb, { length := rfl, frame := holds_nil _ _, sum := rfl, frameOnly := rfl }⟩

/-- A sequence of puts appends all its bytes, stuffed, and sums each of them once (R163 to R167). -/
theorem Building.puts {s u : State} {wire : List Byte} {sum : Half} (h : Building s wire sum u)
    {puts : List (Instr × List Byte)} (hputs : ∀ x ∈ puts, putBytes x.1 = some x.2) (hb : s.txBusy = false)
    (hcap : s.cfg.txCap ≤ 65535) (hfit : (wire ++ stuff (puts.map Prod.snd).flatten).length ≤ s.cfg.txCap) :
    ∃ x, execAll (puts.map Prod.fst) u = .next x ∧
      Building s (wire ++ stuff (puts.map Prod.snd).flatten) (sum + byteSum (puts.map Prod.snd).flatten) x := by
  induction puts generalizing u wire sum with
  | nil => exact ⟨u, rfl, by simpa using h⟩
  | cons x puts ih =>
    obtain ⟨hx, hrest⟩ := List.forall_mem_cons.1 hputs
    simp only [List.map_cons, List.flatten_cons, stuff_append, byteSum_append, ← List.append_assoc,
      ← BitVec.add_assoc] at hfit ⊢
    obtain ⟨v, hv, hbv⟩ := h.append (writesWire_put hx u) hb hcap ((List.prefix_append _ _).length_le.trans hfit)
    obtain ⟨y, hy, hby⟩ := ih hbv hrest hfit
    exact ⟨y, (execAll_cons_of_next hv _).trans hy, hby⟩

/-- TX_CHECKSUM appends the running sum of the frame (R168). -/
theorem Building.checksum {s u : State} {wire : List Byte} {sum : Half} (h : Building s wire sum u)
    (hb : s.txBusy = false) (hcap : s.cfg.txCap ≤ 65535)
    (hfit : (wire ++ stuff [sum.extractLsb' 8 8, sum.extractLsb' 0 8]).length ≤ s.cfg.txCap) :
    ∃ x k, exec .txChecksum u = .next x ∧
      Building s (wire ++ stuff [sum.extractLsb' 8 8, sum.extractLsb' 0 8]) k x := by
  have hw := writesWire_txChecksum u
  rw [h.sum] at hw
  obtain ⟨x, hx⟩ := h.append hw hb hcap hfit
  exact ⟨x, _, hx⟩

/-- The payload of a frame built from an identifier, body bytes and a checksum (R168, R170, R171). -/
def framePayload (id : BitVec 16) (body : List Byte) (sum : Half) : List Byte :=
  idBytes id ++ body ++ [sum.extractLsb' 8 8, sum.extractLsb' 0 8]

/-- The wire form of such a payload, by the commands that write its parts. -/
theorem wireFrame_framePayload (id : BitVec 16) (body : List Byte) (sum : Half) :
    wireFrame (framePayload id body sum) = startMarker :: stuff (idBytes id) ++ stuff body ++
      stuff [sum.extractLsb' 8 8, sum.extractLsb' 0 8] ++ [startMarker, terminator] := by
  simp only [framePayload, wireFrame, stuff_append, List.cons_append, List.append_assoc]

/-- TX_OPEN, TX_COMMAND, puts, TX_CHECKSUM and TX_CLOSE each append their part, which fits as the whole does. -/
theorem building_wireFrame {s : State} {id : BitVec 16} {puts : List (Instr × List Byte)} {sum : Half}
    (hputs : ∀ x ∈ puts, putBytes x.1 = some x.2) (hb : s.txBusy = false) (hcap : s.cfg.txCap ≤ 65535)
    (hsum : (if s.cfg.txSumIncludesId then byteSum (idBytes id) else 0) + byteSum (puts.map Prod.snd).flatten = sum)
    (hfit : (wireFrame (framePayload id (puts.map Prod.snd).flatten sum)).length ≤ s.cfg.txCap) :
    ∃ t k, execAll (.txOpen :: .txCommand id :: (puts.map Prod.fst ++ [.txChecksum, .txClose])) s = .next t ∧
      Building s (wireFrame (framePayload id (puts.map Prod.snd).flatten sum)) k t := by
  rw [wireFrame_framePayload] at hfit ⊢
  have hfitSum := (List.prefix_append _ _).length_le.trans hfit
  have hfitBody := (List.prefix_append _ _).length_le.trans hfitSum
  have hfitHead := (List.prefix_append _ _).length_le.trans hfitBody
  obtain ⟨a, ha, hba⟩ := building_open hb
  obtain ⟨c, hc, hbc⟩ := hba.append (writesWire_txCommand id a) hb hcap hfitHead
  rw [hba.cfg, BitVec.zero_add] at hbc
  obtain ⟨d, hd, hbd⟩ := hbc.puts hputs hb hcap hfitBody
  rw [hsum] at hbd
  obtain ⟨e, k, he, hbe⟩ := hbd.checksum hb hcap hfitSum
  obtain ⟨t, ht, hbt⟩ := hbe.append (writesWire_txClose e) hb hcap hfit
  refine ⟨t, _, ?_, hbt⟩
  rw [execAll_cons_of_next ha, execAll_cons_of_next hc, execAll_append hd, execAll_cons_of_next he,
    execAll_cons_of_next ht, execAll]

/-- Settles O46: the frame built is the wire form of its payload, whose length is R171's. -/
theorem builtFrameIsTheWireForm : Obligations.BuiltFrameIsTheWireForm := by
  intro s id puts hputs hb hcap body sum p hfit
  have hlen : (wireFrame p).length = p.length + p.count 0x10#8 + 3 := wireFrame_length p
  obtain ⟨t, k, hrun, hbuilt⟩ := building_wireFrame hputs hb hcap rfl (hlen.trans_le hfit)
  exact ⟨t, hrun, hbuilt.length.trans hlen, hbuilt.frame, hbuilt.txOvf, hbuilt.txBusy.trans hb, hbuilt.frameOnly⟩

/-! ### The checksum claim of a built and of a changed payload -/

/-- A payload that ends in the sum of the rest makes a true claim (R134, R168). -/
theorem checksumClaim_append_sum {q : List Byte} (hq : q ≠ []) :
    checksumClaim (q ++ [(byteSum q).extractLsb' 8 8, (byteSum q).extractLsb' 0 8]) = true := by
  have hpos : 0 < q.length := List.length_pos_iff.2 hq
  have hlen : (q ++ [(byteSum q).extractLsb' 8 8, (byteSum q).extractLsb' 0 8]).length = q.length + 2 := by simp
  rw [checksumClaim_iff, hlen, Nat.add_sub_cancel, List.drop_left, List.take_left]
  exact ⟨by omega, be_pair_eq_iff.2 ⟨rfl, rfl⟩⟩

/-- Settles O47: the frame is the wire form, the deframer reads it back, and its claim is true. -/
theorem builtFramesRoundTrip : Obligations.BuiltFramesRoundTrip := by
  intro s r id puts hputs hb hcap hincl body sum p hfit ha hv hs hroom hrcap hm ht
  have hsum : (if s.cfg.txSumIncludesId then byteSum (idBytes id) else 0) + byteSum body = sum := by
    rw [if_pos hincl, ← byteSum_append]
  obtain ⟨t, k, hrun, hbuilt⟩ := building_wireFrame hputs hb hcap hsum ((wireFrame_length p).trans_le hfit)
  have hpos : 1 ≤ p.length := by simp [p]; omega
  obtain ⟨u, hu, hpayload, hrlen, hkind, hres, hforced, -, hvalid, -⟩ :=
    deframerReadsTheWireForm r p ha hv hs hpos hroom hrcap hm ht
  have hclaim : checksumClaim p = true := checksumClaim_append_sum (by simp [idBytes_ne_nil])
  exact ⟨t, wireFrame p, hrun, hbuilt.length.symm, hbuilt.frame, u, hu, hpayload, hrlen, hkind, hres,
    hforced, hvalid.trans hclaim⟩

/-- Changing one byte moves the sum by the difference of the two (D7). -/
theorem byteSum_set {q : List Byte} {i : Nat} {a : Byte} (h : q[i]? = some a) (b : Byte) :
    byteSum (q.set i b) + zext16 a = byteSum q + zext16 b := by
  induction q generalizing i with
  | nil => simp at h
  | cons c q ih =>
    cases i with
    | zero =>
      obtain rfl : c = a := by simpa using h
      simp only [List.set_cons_zero, byteSum_cons]
      ac_rfl
    | succ i =>
      have hi := ih (by simpa using h)
      simp only [List.set_cons_succ, byteSum_cons, BitVec.add_assoc, hi]

theorem zext16_inj {a b : Byte} (h : zext16 a = zext16 b) : a = b := by
  simpa [zext16] using congrArg (BitVec.setWidth 8) h

/-- Two lists that differ in one byte have different sums (R173). -/
theorem eq_of_byteSum_set {q : List Byte} {i : Nat} {a b : Byte} (h : q[i]? = some a)
    (hs : byteSum (q.set i b) = byteSum q) : a = b := by
  have hset := byteSum_set h b
  rw [hs] at hset
  exact zext16_inj (by simpa using hset)

/-- One changed byte, other than the last two, makes a true claim false (R173). -/
theorem checksumClaim_set {p : List Byte} {i : Nat} {b : Byte} (hp : checksumClaim p = true)
    (hi : i + 3 ≤ p.length) (hne : p[i]? ≠ some b) : checksumClaim (p.set i b) = false := by
  obtain ⟨a, ha⟩ : ∃ a, p[i]? = some a := ⟨_, List.getElem?_eq_getElem (by omega)⟩
  obtain ⟨-, hclaim⟩ := checksumClaim_iff.1 hp
  rw [Bool.eq_false_iff, ne_eq, checksumClaim_iff, List.length_set, List.drop_set, List.take_set, if_pos (by omega),
    hclaim]
  rintro ⟨-, hsum⟩
  have hq : (p.take (p.length - 2))[i]? = some a := by rw [List.getElem?_take_of_lt (by omega), ha]
  have hab : a = b := eq_of_byteSum_set hq (BitVec.eq_of_toNat_eq hsum.symm)
  exact hne (ha.trans (congrArg some hab))

/-- Settles O48: the deframer reads the changed payload, whose claim is false. -/
theorem oneChangedByteIsDetected : Obligations.OneChangedByteIsDetected := by
  intro s p i b ha hv hs hfit hcap hp hi hne hm ht
  have hlen : (p.set i b).length = p.length := List.length_set
  obtain ⟨t, hrun, -, -, hkind, hres, -, -, hvalid, -⟩ :=
    deframerReadsTheWireForm s (p.set i b) ha hv hs (by omega) (by omega) hcap hm ht
  exact ⟨t, hrun, hkind, hres.trans hlen, hvalid.trans (checksumClaim_set hp hi hne)⟩

end Sys2Proof.Machine

/-! ### The value of the bytes read -/

namespace Sys2Proof.Machine

theorem be_singleton (a : Byte) : be [a] = a.toNat := by simp [be]

/-- One byte more behind a big-endian number is one byte more behind its bits (R13). -/
theorem be_append_byte {w : Nat} {bs : List Byte} {x : BitVec w} (h : be bs = x.toNat) (b : Byte) :
    be (bs ++ [b]) = (x ++ b).toNat := by
  rw [be_append, be_singleton, h, BitVec.toNat_append, ← Nat.shiftLeft_add_eq_or_of_lt b.isLt, Nat.shiftLeft_eq,
    List.length_singleton, Nat.mul_one]

theorem be_pair (a b : Byte) : be [a, b] = (a ++ b).toNat := be_append_byte (be_singleton a) b

theorem be_quad (a b c d : Byte) : be [a, b, c, d] = (a ++ b ++ c ++ d).toNat :=
  be_append_byte (be_append_byte (be_pair a b) c) d

theorem be_octet (a b c d e f g h : Byte) :
    be [a, b, c, d, e, f, g, h] = (a ++ b ++ c ++ d ++ e ++ f ++ g ++ h).toNat :=
  be_append_byte (be_append_byte (be_append_byte (be_append_byte (be_quad a b c d) e) f) g) h

theorem zext64_toNat {w : Nat} (x : BitVec w) : zext64 x.toNat = x.setWidth 64 := BitVec.ofNat_toNat 64 x

theorem sext64_toNat {w : Nat} (x : BitVec w) : sext64 w x.toNat = x.signExtend 64 := by
  rw [sext64, BitVec.ofNat_toNat, BitVec.setWidth_eq]

theorem zext64_be_pair (a b : Byte) : zext64 (be [a, b]) = (a ++ b).setWidth 64 := by rw [be_pair, zext64_toNat]

theorem sext64_be_pair (a b : Byte) : sext64 16 (be [a, b]) = (a ++ b).signExtend 64 := by rw [be_pair, sext64_toNat]

theorem zext64_be_quad (a b c d : Byte) : zext64 (be [a, b, c, d]) = (a ++ b ++ c ++ d).setWidth 64 := by
  rw [be_quad, zext64_toNat]

theorem sext64_be_quad (a b c d : Byte) : sext64 32 (be [a, b, c, d]) = (a ++ b ++ c ++ d).signExtend 64 := by
  rw [be_quad, sext64_toNat]

theorem zext64_be_octet (a b c d e f g h : Byte) :
    zext64 (be [a, b, c, d, e, f, g, h]) = a ++ b ++ c ++ d ++ e ++ f ++ g ++ h := by
  rw [be_octet, zext64_toNat, BitVec.setWidth_eq]

/-- The bytes at the top of an n-byte number with a zero tail: byte i weighs 2^(8(n-1-i)) (R193). -/
theorem be_mul_tail_eq_sum {bs : List Byte} {n : Nat} (h : bs.length ≤ n) :
    be bs * 2 ^ (8 * (n - bs.length)) =
      ((List.range bs.length).map (fun i => (bs.getD i 0).toNat * 2 ^ (8 * (n - 1 - i)))).sum := by
  induction bs generalizing n with
  | nil => simp [be]
  | cons b bs ih =>
    cases n with
    | zero => simp at h
    | succ m =>
      have hm : bs.length ≤ m := Nat.le_of_succ_le_succ h
      have hhead : 8 * bs.length + 8 * (m - bs.length) = 8 * m := by omega
      calc be (b :: bs) * 2 ^ (8 * (m + 1 - (bs.length + 1)))
          = b.toNat * 2 ^ (8 * m) + be bs * 2 ^ (8 * (m - bs.length)) := by
            rw [be, Nat.add_sub_add_right, Nat.add_mul, Nat.mul_assoc, ← Nat.pow_add, hhead]
        _ = _ := by simp [ih hm, List.range_succ_eq_map, Function.comp_def, Nat.sub_sub, Nat.add_comm 1]

/-- With its zero tail the number still has n bytes. -/
theorem be_mul_tail_lt {bs : List Byte} {n : Nat} (h : bs.length ≤ n) :
    be bs * 2 ^ (8 * (n - bs.length)) < 2 ^ (8 * n) := by
  calc be bs * 2 ^ (8 * (n - bs.length))
      < 2 ^ (8 * bs.length) * 2 ^ (8 * (n - bs.length)) := Nat.mul_lt_mul_of_pos_right (be_lt bs) (Nat.two_pow_pos _)
    _ = 2 ^ (8 * n) := by rw [← Nat.pow_add, ← Nat.mul_add, Nat.add_sub_cancel' h]

end Sys2Proof.Machine

/-! ### The commands of the cursor, forward -/

namespace Sys2Proof.Machine

theorem getScalar_of_armed {n : Nat} {f : List Byte → Quad} {s : State} (h : s.armed = true) :
    getScalar n f s = .next (s.answer .busy) := if_pos h

theorem execGetBytes_of_armed {n : Nat} {s : State} (hn : legalCount n = true) (h : s.armed = true) :
    execGetBytes n s = .next (s.answer .busy) := (if_pos hn).trans (if_pos h)

theorem execGetId_of_armed {s : State} (h : s.armed = true) : execGetId s = .next (s.answer .busy) := if_pos h

/-- The offset moved over all the bytes left stands at `clen` (R191). -/
theorem coff_add_left {s : State} (h : s.coff.toNat ≤ s.clen.toNat) :
    s.coff + BitVec.ofNat 16 (s.clen.toNat - s.coff.toNat) = s.clen := by
  have hlt := s.clen.isLt
  refine BitVec.eq_of_toNat_eq ?_
  rw [BitVec.toNat_add, BitVec.toNat_ofNat]
  omega

/-- A command that is one scalar get reads as R194 and R202 say, whatever its value of a list of another length. -/
theorem getsScalar_of_exec {i : Instr} {n : Nat} {f value : List Byte → Quad} {s : State}
    (he : exec i s = getScalar n f s) (hv : ∀ bs, bs.length = n → f bs = value bs) : GetsScalar i n value s := by
  simp only [GetsScalar, he]
  refine ⟨getScalar_of_armed, fun bs ha hle hl hc hh => ?_⟩
  have hraw := getRaw_of_holds hl hh (.inr hc)
  refine ⟨fun hfull => ?full, fun hshort => ?short⟩
  case full => simp [getScalar, ha, hraw, hfull, hv bs hfull]
  case short =>
    have hleft : bs.length = s.clen.toNat - s.coff.toNat := by omega
    have hend : s.coff + BitVec.ofNat 16 bs.length = s.clen := hleft ▸ coff_add_left hle
    simp [getScalar, ha, hraw, hshort, hend]

theorem getsScalar_two {i : Instr} {f value : List Byte → Quad} {s : State} (he : exec i s = getScalar 2 f s)
    (hv : ∀ a b, f [a, b] = value [a, b]) : GetsScalar i 2 value s :=
  getsScalar_of_exec he fun bs hl => match bs, hl with
    | [a, b], _ => hv a b

theorem getsScalar_four {i : Instr} {f value : List Byte → Quad} {s : State} (he : exec i s = getScalar 4 f s)
    (hv : ∀ a b c d, f [a, b, c, d] = value [a, b, c, d]) : GetsScalar i 4 value s :=
  getsScalar_of_exec he fun bs hl => match bs, hl with
    | [a, b, c, d], _ => hv a b c d

theorem getsScalar_eight {i : Instr} {f value : List Byte → Quad} {s : State} (he : exec i s = getScalar 8 f s)
    (hv : ∀ a b c d e f' g h, f [a, b, c, d, e, f', g, h] = value [a, b, c, d, e, f', g, h]) :
    GetsScalar i 8 value s :=
  getsScalar_of_exec he fun bs hl => match bs, hl with
    | [a, b, c, d, e, f', g, h], _ => hv a b c d e f' g h

/-- Settles O50: each get is one scalar get, and its value is that of the bytes read. -/
theorem shortScalarGets : Obligations.ShortScalarGets := fun _ =>
  ⟨getsScalar_two rfl sext64_be_pair, getsScalar_two rfl zext64_be_pair, getsScalar_four rfl sext64_be_quad,
    getsScalar_four rfl zext64_be_quad, getsScalar_four rfl zext64_be_quad⟩

/-- Settles O51: the three gets are the same scalar get of eight bytes. -/
theorem longScalarGets : Obligations.LongScalarGets := by
  intro s i hi
  have he : exec i s = getScalar 8 (fun bs => zext64 (be bs)) s := by rcases hi with rfl | rfl | rfl <;> rfl
  exact getsScalar_eight he zext64_be_octet

/-- A count outside 1..8 is rejected (R97). -/
theorem countImm_of_outOfRange {imm : Byte} (h : imm = 0 ∨ 8 < imm.toNat) (i : Instr) :
    countImm imm i = .error .countOutOfRange := by
  refine if_neg fun hc => ?_
  obtain ⟨h1, h8⟩ := (legalCount_iff _).1 hc
  rcases h with rfl | h
  · exact absurd h1 (by decide)
  · omega

/-- The row of GET_BYTES in the opcode map (R93, R94). -/
theorem decodeCmd_getBytes (n : Byte) (d : Quad) : decodeCmd (mkCmd 0x11 n) d = countImm n (.getBytes n.toNat) := by
  have hop : (opField (mkCmd 0x11 n)).toNat = 0x11 := by rw [opField_mkCmd]; rfl
  simp only [decodeCmd, hop, immField_mkCmd]

/-- GET_BYTES takes the bytes that are there as the top of an n-byte number (R193). -/
theorem execGetBytes_of_holds {n : Nat} {s : State} {bs : List Byte} (hn : legalCount n = true)
    (ha : s.armed = false) (hl : bs.length = min n (s.clen.toNat - s.coff.toNat))
    (hc : s.coff.toNat + bs.length ≤ s.cfg.rxCap) (hh : holds s.rbuf s.coff.toNat bs) :
    execGetBytes n s = .next (State.answer (if bs.length = n then .ok else .short)
      { s with
        coff := s.coff + BitVec.ofNat 16 bs.length, rcount := BitVec.ofNat 4 bs.length
        rdata := zext64 (be bs * 2 ^ (8 * (n - bs.length))) }) := by
  simp [execGetBytes, hn, ha, getRaw_of_holds hl hh (.inr hc)]

/-- Settles O52: the number read fits 64 bits and is the sum of its bytes by weight. -/
theorem getBytesPadsTheTail : Obligations.GetBytesPadsTheTail := by
  refine ⟨fun s n h1 h8 => ?_, fun n d hn => (decodeCmd_getBytes n d).trans (countImm_of_outOfRange hn _)⟩
  have hn : legalCount n = true := (legalCount_iff n).2 ⟨h1, h8⟩
  refine ⟨execGetBytes_of_armed hn, fun bs ha _ hl hc hh => ⟨_, execGetBytes_of_holds hn ha hl hc hh, ?_⟩⟩
  have hle : bs.length ≤ n := hl.trans_le (Nat.min_le_left _ _)
  have hfit : be bs * 2 ^ (8 * (n - bs.length)) < 2 ^ 64 :=
    (be_mul_tail_lt hle).trans_le (Nat.pow_le_pow_right (by decide) (Nat.mul_le_mul_left 8 h8))
  rw [zext64, BitVec.toNat_ofNat, Nat.mod_eq_of_lt hfit, be_mul_tail_eq_sum hle]

/-- Settles O49: the two branches of R192. -/
theorem curInitCoversThePayload : Obligations.CurInitCoversThePayload :=
  fun _ => ⟨fun ha => if_pos ha, fun ha => if_neg (Bool.eq_false_iff.1 ha)⟩

/-- Settles O53, command by command; the eight scalar gets are one case. -/
theorem cursorIsBusyWhileArmed : Obligations.CursorIsBusyWhileArmed := by
  rintro s i ha (rfl | ⟨n, rfl, hn⟩ | rfl | rfl | rfl | rfl | rfl | rfl | rfl | rfl | rfl)
  · exact (curInitCoversThePayload s).1 ha
  · exact execGetBytes_of_armed hn ha
  on_goal 9 => exact execGetId_of_armed ha
  all_goals exact getScalar_of_armed ha

end Sys2Proof.Machine

/-! ### The identifier and its mask -/

namespace Sys2Proof.Machine

theorem execGetId_of_empty {s : State} (ha : s.armed = false) (hend : s.coff = s.clen) :
    execGetId s = .next (State.answer .short { s with rcount := 0 }) :=
  (if_neg (Bool.eq_false_iff.1 ha)).trans (if_pos hend)

section Primary

variable {s : State} {p : Byte} (ha : s.armed = false) (hne : s.coff ≠ s.clen)
  (hp : readRbuf s s.coff.toNat = .ok p)
include ha hne hp

/-- A family byte that `ext_mask` does not mark is the whole identifier (R220). -/
theorem execGetId_of_unmarked (hm : extBit s.extMask p = false) :
    execGetId s = .next (State.answer .ok { s with coff := s.coff + 1, rcount := 1, rdata := zext64 (be [p]) }) := by
  simp [execGetId, ha, hne, hp, hm]

/-- A marked family byte at the end of the payload is consumed, and `rdata` stays (R220). -/
theorem execGetId_of_missingSub (hm : extBit s.extMask p = true) (hend : s.coff + 1 = s.clen) :
    execGetId s = .next (State.answer .short { s with coff := s.coff + 1, rcount := 1 }) := by
  simp only [execGetId, if_neg (Bool.eq_false_iff.1 ha), if_neg hne, hp, if_pos hm, if_pos hend, respond_eq]

/-- A marked family byte and the byte behind it are the identifier, high byte first (R220). -/
theorem execGetId_of_sub {q : Byte} (hm : extBit s.extMask p = true) (hmore : s.coff + 1 ≠ s.clen)
    (hq : readRbuf { s with coff := s.coff + 1 } (s.coff + 1).toNat = .ok q) :
    execGetId s = .next (State.answer .ok
      { s with coff := s.coff + 1 + 1, rcount := 2, rdata := zext64 (be [p, q]) }) := by
  simp only [execGetId, if_neg (Bool.eq_false_iff.1 ha), if_neg hne, hp, if_pos hm, if_neg hmore, hq, respond_eq]

end Primary

theorem zext64_be_singleton (a : Byte) : zext64 (be [a]) = a.setWidth 64 := by rw [be_singleton, zext64_toNat]

/-- Settles O55, branch by branch; the values are those of the bytes read. -/
theorem getIdReadsTheEffectiveIdentifier : Obligations.GetIdReadsTheEffectiveIdentifier := by
  intro s
  refine ⟨execGetId_of_armed, execGetId_of_empty, fun p ha hne hcap hread => ?_⟩
  have hp : readRbuf s s.coff.toNat = .ok p := readRbuf_eq_ok.2 ⟨hcap, hread⟩
  refine ⟨fun hm => ?unmarked, execGetId_of_missingSub ha hne hp, fun q hm hmore hcap' hread' => ?sub⟩
  case unmarked =>
    rw [← zext64_be_singleton]
    exact execGetId_of_unmarked ha hne hp hm
  case sub =>
    have htwo : s.coff + 2 = s.coff + 1 + 1 := (BitVec.add_assoc s.coff 1 1).symm
    rw [← zext64_be_pair, htwo]
    exact execGetId_of_sub ha hne hp hm hmore (readRbuf_eq_ok.2 ⟨hcap', hread'⟩)

/-- Settles O56: the mask is `setExtBit`'s, whose bits `extBit_setExtBit` gives. -/
theorem setExtWritesOneBit : Obligations.SetExtWritesOneBit :=
  fun s p m => ⟨setExtBit s.extMask p m, rfl, fun q => extBit_setExtBit s.extMask p q m⟩

end Sys2Proof.Machine

/-! ### The transport's commands and stimuli, forward -/

namespace Sys2Proof.Machine

/-- Settles O25. -/
theorem rxArmStartsAGetFrame : Obligations.RxArmStartsAGetFrame :=
  fun _ => ⟨fun ha => if_pos ha, fun ha => if_neg (Bool.eq_false_iff.1 ha)⟩

/-- Settles O26: the end of stream is a discard and then an EOS result. -/
theorem endOfStreamDiscardsTheFrame : Obligations.EndOfStreamDiscardsTheFrame :=
  fun _ ha hv => if_pos (rxReady_iff.2 ⟨ha, hv⟩)

/-- Settles O27. -/
theorem auxByteIsForwarded : Obligations.AuxByteIsForwarded :=
  fun _ _ ha => if_pos ha

/-- Settles O28: not armed, below the limit, and at the limit with no frame in progress. -/
theorem tickCounts : Obligations.TickCounts := by
  intro s
  refine ⟨fun ha => if_neg (Bool.eq_false_iff.1 ha), fun ha hlt => (if_pos ha).trans (if_pos hlt),
    fun ha hl hs => ?_⟩
  have hexp : ¬ s.idleCnt.toNat + 1 < s.cfg.idleLimit := Nat.not_lt.2 hl
  rw [exec, execTick, if_pos ha, if_neg hexp]
  rcases hs with hs | hs
  · simp only [hs]
  · simp only [hs]

/-- An accepted TX_SEND starts at byte 0, and is a send exactly when the frame has a byte (R240). -/
theorem exec_txSend_of_idle {s : State} (hb : s.txBusy = false) (ho : s.txOvf = false) :
    exec .txSend s = .next (State.answer .ok
      { s with txErr := false, txPtr := 0, txBusy := decide (0 < s.tlen.toNat) }) :=
  (if_neg (Bool.eq_false_iff.1 hb)).trans (if_neg (Bool.eq_false_iff.1 ho))

/-- Settles O42. -/
theorem txSendStartsTheSend : Obligations.TxSendStartsTheSend := by
  intro s
  refine ⟨fun hb => if_pos hb, fun hb ho => (if_neg (Bool.eq_false_iff.1 hb)).trans (if_pos ho),
    fun hb ho hpos => ?_, fun hb ho hzero => ?_⟩
  · rw [exec_txSend_of_idle hb ho, decide_eq_true hpos]
  · have hnone : decide (0 < s.tlen.toNat) = s.txBusy := by simp [hzero, hb]
    rw [exec_txSend_of_idle hb ho, hnone]

/-- Settles O43. -/
theorem txAcceptSendsOneByte : Obligations.TxAcceptSendsOneByte := by
  intro s b hb hcap hread
  have hdata : txData s = .ok b := readTbuf_eq_ok.2 ⟨hcap, hread⟩
  simp only [exec, execTxAccept, txValid, hb, if_true, hdata]
  rfl

/-- Bit 11 of the status word is `tx_err` (R261). -/
theorem getLsbD_statusWord_txErr (s : State) : (statusWord s).getLsbD 11 = s.txErr := by
  unfold statusWord
  simp only [BitVec.getLsbD_append]
  simp

/-- Settles O44: a send in progress has a byte to send and has not overflowed, so it can be started again. -/
theorem txFailIsRecoverable : Obligations.TxFailIsRecoverable := by
  intro s hb
  refine ⟨_, rfl, if_pos hb, ⟨_, rfl, getLsbD_statusWord_txErr _⟩, fun h => ?_⟩
  obtain ⟨hlt, hovf⟩ := h.sending hb
  obtain ⟨-, -, hsend, -⟩ := txSendStartsTheSend { s with txBusy := false, txErr := true }
  exact hsend rfl hovf (Nat.zero_lt_of_lt hlt)

end Sys2Proof.Machine

/-! ### Sending a frame -/

namespace Sys2Proof.Machine

/-- One TX_ACCEPT per byte left sends exactly the bytes left, in order, and ends the send (R241). -/
theorem execAll_txAccepts {s : State} {bs : List Byte} (hcap : s.tlen.toNat ≤ s.cfg.txCap)
    (hlen : s.txPtr.toNat + bs.length = s.tlen.toNat) (hb : s.txBusy = decide (s.txPtr ≠ s.tlen))
    (hh : holds s.tbuf s.txPtr.toNat bs) :
    execAll (List.replicate bs.length .txAccept) s = .next
      { s with
        txPtr := s.tlen, txBusy := false
        ports := { s.ports with txOut := s.ports.txOut ++ bs } } := by
  induction bs generalizing s with
  | nil =>
    have hptr : s.txPtr = s.tlen := BitVec.eq_of_toNat_eq hlen
    have hidle : s.txBusy = false := by simpa [hptr] using hb
    rw [List.append_nil, ← hidle]
    exact congrArg (fun p => Host.Outcome.next { s with txPtr := p }) hptr
  | cons b bs ih =>
    obtain ⟨hread, hrest⟩ := holds_cons.1 hh
    rw [List.length_cons] at hlen
    have hlt : s.txPtr.toNat < s.tlen.toNat := by omega
    have hbusy : s.txBusy = true := hb.trans (decide_eq_true fun e => absurd (congrArg BitVec.toNat e) hlt.ne)
    have hnext : (s.txPtr + 1).toNat = s.txPtr.toNat + 1 :=
      toNat_succ_of_lt hlt (Nat.le_of_lt_succ s.tlen.isLt)
    rw [List.length_cons, List.replicate_succ,
      execAll_cons_of_next (txAcceptSendsOneByte s b hbusy (hlt.trans_le hcap) hread), ih]
    · simp only [List.append_assoc, List.singleton_append]
    · exact hcap
    · show (s.txPtr + 1).toNat + bs.length = s.tlen.toNat
      omega
    · rfl
    · show holds s.tbuf (s.txPtr + 1).toNat bs
      rwa [hnext]

/-- Settles O45: TX_SEND sets `tx_ptr` to byte 0, from where the accepts send the whole frame. -/
theorem sendEmitsTheFrameInOrder : Obligations.SendEmitsTheFrameInOrder := by
  intro s bs h hb ho hlen hh
  have hbusy : decide (0 < s.tlen.toNat) = decide ((0 : Half) ≠ s.tlen) :=
    decide_eq_decide.2 (by bv_omega)
  have hsent := execAll_txAccepts (bs := bs)
    (s := State.answer .ok { s with txErr := false, txPtr := 0, txBusy := decide (0 < s.tlen.toNat) })
    h.tlenLe (by simpa using hlen) hbusy hh
  exact ⟨_, (execAll_cons_of_next (exec_txSend_of_idle hb ho) _).trans hsent, rfl, rfl, rfl, rfl, rfl, rfl⟩

end Sys2Proof.Machine

/-! ### The end of a get_frame, and the idle count -/

namespace Sys2Proof.Machine

/-- A get_frame has returned (R133, R231): its result is pending, and the idle count starts again. -/
structure Returned (t : State) : Prop where
  pending : t.resPending = true
  kind : t.resKind = .frame ∨ t.resKind = .tooLong ∨ t.resKind = .eos
  idle : t.idleCnt = 0

/-- Every result is a return. -/
theorem returned_setResult (s : State) {k : ResKind} (n : Half) (v f : Bool)
    (hk : k = .frame ∨ k = .tooLong ∨ k = .eos) : Returned (s.setResult k n v f) := ⟨rfl, hk, rfl⟩

theorem returned_of_complete {s t : State} {f : Bool} (hc : complete f s = .ok t) : Returned t := by
  rcases complete_cases hc with ⟨-, rfl⟩ | ⟨-, lo, hi, -, -, rfl⟩
  · exact returned_setResult _ _ _ _ (.inl rfl)
  · exact returned_setResult _ _ _ _ (.inl rfl)

/-- A byte through the deframer ends the get_frame with a result, or leaves `armed` and the idle count alone. -/
theorem deframe_stays_or_returned {b : Byte} {s t : State} (hd : deframe b s = .ok t) :
    t.armed = s.armed ∧ t.idleCnt = s.idleCnt ∨ Returned t := by
  rcases deframe_cases hd with ⟨-, -, rfl⟩ | ⟨-, -, rfl⟩ | ⟨-, -, rfl⟩ | ⟨-, -, rfl⟩ | ⟨-, -, -, -, rfl⟩ |
    ⟨-, -, rfl⟩ | ⟨-, -, rfl⟩ | ⟨-, -, rfl⟩ | ⟨-, -, hc⟩ | ⟨-, -, -, rfl⟩
  on_goal 9 => exact .inr (returned_of_complete hc)
  on_goal 8 => exact .inr (returned_setResult _ _ _ _ (.inr (.inl rfl)))
  all_goals exact .inl ⟨rfl, rfl⟩

/-- What takes `armed` from 1 to 0 is RESET or a return. -/
theorem Effect.reset_or_returned {i : Instr} {s t : State} (he : Effect s i t) (ha : s.armed = true)
    (hd : t.armed = false) : i = .reset ∧ t = State.resetOf s.cfg s.ports ∨ Returned t := by
  have habs : ∀ {p : Prop}, t.armed = s.armed → p := fun e => by simp [e, ha] at hd
  cases he with
  | byte _ h => exact .inr ((deframe_stays_or_returned h).resolve_left fun e => habs e.1)
  | replay _ h => exact .inr ((deframe_stays_or_returned h).resolve_left fun e => habs e.1)
  | force _ _ _ h => exact .inr (returned_of_complete h)
  | eos => exact .inr (returned_setResult _ _ _ _ (.inr (.inr rfl)))
  | reset => exact .inl ⟨rfl, rfl⟩
  | arm => cases hd
  | stays | answers | setExt | readReg | curInit | get | build | aux | count | accept | fail => exact habs rfl

/-- Settles O32. -/
theorem onlyAResultEndsAGetFrame : Obligations.OnlyAResultEndsAGetFrame := by
  intro i s t he ha hd
  rcases (exec_effect he).reset_or_returned ha hd with ⟨hi, -⟩ | hr
  · exact .inl hi
  · exact .inr ⟨hr.pending, hr.kind⟩

/-- An accepted byte restarts the idle count, whether it ends the get_frame or not (R234). -/
theorem idleCnt_rxByte {s t : State} {b : Byte} (ha : s.armed = true) (hv : s.ungetV = false)
    (he : exec (.rxByte b) s = .next t) : t.idleCnt = 0 := by
  have hd : deframe b { s with idleCnt := 0 } = .ok t :=
    finish_eq_next.1 ((if_pos (rxReady_iff.2 ⟨ha, hv⟩)).symm.trans he)
  rcases deframe_stays_or_returned hd with ⟨-, hi⟩ | hr
  · exact hi
  · exact hr.idle

/-- Settles O29: activity and results write 0; under the invariant a replay is noise and gives no result. -/
theorem idleCountRestartsOnActivity : Obligations.IdleCountRestartsOnActivity := by
  intro i s t h he
  refine ⟨fun hact => ?activity, fun ha hd => ?result, fun hbyte heos haux harm htick hreset => ?other,
    fun hi ha => ?tick⟩
  case activity =>
    rcases hact with ⟨⟨b, rfl⟩ | rfl, ha, hv⟩ | ⟨⟨a, rfl⟩, ha⟩ | ⟨rfl, ha⟩
    · exact idleCnt_rxByte ha hv he
    · cases (endOfStreamDiscardsTheFrame s ha hv).symm.trans he
      rfl
    · cases (auxByteIsForwarded s a ha).symm.trans he
      rfl
    · cases ((rxArmStartsAGetFrame s).2 ha).symm.trans he
      rfl
  case result =>
    rcases (exec_effect he).reset_or_returned ha hd with ⟨-, rfl⟩ | hr
    · rfl
    · exact hr.idle
  case other =>
    cases exec_effect he with
    | byte => exact absurd rfl (hbyte _)
    | eos => exact absurd rfl heos
    | aux => exact absurd rfl (haux _)
    | arm => exact absurd rfl harm
    | count | force => exact absurd rfl htick
    | reset => exact absurd rfl hreset
    | replay hv =>
      cases (replayChangesOnlyUngetV s h hv).symm.trans he
      rfl
    | stays | answers | setExt | readReg | curInit | get | build | accept | fail => rfl
  case tick =>
    subst hi
    cases ((tickCounts s).1 ha).symm.trans he
    rfl

/-! ### The idle timeout -/

/-- Fewer ticks than the limit only count (R236). -/
theorem execAll_ticks_of_lt {s : State} (h : Inv s) (ha : s.armed = true) (hz : s.idleCnt = 0) {n : Nat}
    (hn : n < s.cfg.idleLimit) :
    execAll (List.replicate n Instr.tick) s = .next { s with idleCnt := BitVec.ofNat 16 n } := by
  induction n with
  | zero =>
    show Host.Outcome.next s = .next { s with idleCnt := 0 }
    rw [← hz]
  | succ n ih =>
    have hle := h.idleLimit_le
    have hcount : (BitVec.ofNat 16 n).toNat + 1 < s.cfg.idleLimit := by
      rw [BitVec.toNat_ofNat]
      omega
    have hstep := (tickCounts { s with idleCnt := BitVec.ofNat 16 n }).2.1 ha hcount
    rw [List.replicate_succ', execAll_append (ih (Nat.lt_of_succ_lt hn)), execAll_cons_of_next hstep,
      BitVec.ofNat_add]
    rfl

/-- What a completion delivers, whatever the payload claims (R133). -/
theorem complete_result {s t : State} {f : Bool} (hc : complete f s = .ok t) :
    t.armed = false ∧ t.resPending = true ∧ t.resKind = .frame ∧ t.resForced = f ∧ t.resLen = s.rlen ∧
      t.rbuf = s.rbuf := by
  rcases complete_cases hc with ⟨-, rfl⟩ | ⟨-, lo, hi, -, -, rfl⟩ <;> exact ⟨rfl, rfl, rfl, rfl, rfl, rfl⟩

/-- Settles O30: all ticks but the last only count, and the last one meets the limit. -/
theorem silentFrameIsForcedAtTheLimit : Obligations.SilentFrameIsForcedAtTheLimit := by
  intro s h hf hz
  have ha := h.armed_of_inFrame hf
  refine ⟨fun n hn => execAll_ticks_of_lt h ha hz hn, ?_⟩
  obtain ⟨n, hlim⟩ : ∃ n, s.cfg.idleLimit = n + 1 := Nat.exists_eq_succ_of_ne_zero h.idleLimit_pos.ne'
  have hle := h.idleLimit_le
  have hexp : s.cfg.idleLimit ≤ (BitVec.ofNat 16 n).toNat + 1 := by
    rw [BitVec.toNat_ofNat]
    omega
  obtain ⟨t, ht⟩ : ∃ t, complete true { s with idleCnt := 0 } = .ok t :=
    complete_isOk h.payloadWritten h.rlenLe
  have hlast : exec .tick { s with idleCnt := BitVec.ofNat 16 n } = .next t := exec_tick_of_expired ha hf hexp ht
  have hcount := execAll_ticks_of_lt h ha hz (n := n) (by omega)
  refine ⟨t, ?_, complete_result ht⟩
  rw [hlim, List.replicate_succ', execAll_append hcount, execAll_cons_of_next hlast]
  rfl

end Sys2Proof.Machine

/-! ### Independence of RX and TX -/

namespace Sys2Proof.Machine

/-- The outcome of a step whose accesses may fail follows a change of its state. -/
theorem finish_map (f : State → State) (r : Except Fault State) : finish (r.map f) = mapNext f (finish r) := by
  cases r <;> rfl

section RxSide

variable (u s : State)

/-! What the RX side reads is not the TX framer's. -/

@[simp] theorem State.withTx_rxState : (State.withTx u s).rxState = s.rxState := rfl
@[simp] theorem State.withTx_rlen : (State.withTx u s).rlen = s.rlen := rfl
@[simp] theorem State.withTx_clen : (State.withTx u s).clen = s.clen := rfl
@[simp] theorem State.withTx_coff : (State.withTx u s).coff = s.coff := rfl
@[simp] theorem readRbuf_withTx (i : Nat) : readRbuf (State.withTx u s) i = readRbuf s i := rfl

theorem readRbufBlock_withTx (i n : Nat) : readRbufBlock (State.withTx u s) i n = readRbufBlock s i n := by
  induction n generalizing i with
  | zero => rfl
  | succ n ih => simp only [readRbufBlock, readRbuf_withTx, ih]

/-! What the RX side writes commutes with an exchange of the TX framer. -/

theorem writeRbuf_withTx (i : Nat) (b : Byte) :
    writeRbuf i b (State.withTx u s) = (writeRbuf i b s).map (State.withTx u) := by
  rw [writeRbuf, writeRbuf, apply_ite (Except.map _)]
  rfl

theorem bodyAppend_withTx (b : Byte) :
    bodyAppend b (State.withTx u s) = (bodyAppend b s).map (Prod.map id (State.withTx u)) := by
  rw [bodyAppend, bodyAppend, apply_ite (Except.map _)]
  refine if_congr Iff.rfl rfl ?_
  rw [writeRbuf_withTx, State.withTx_rlen]
  cases writeRbuf s.rlen.toNat b s <;> rfl

theorem complete_withTx (forced : Bool) :
    complete forced (State.withTx u s) = (complete forced s).map (State.withTx u) := by
  rw [complete, complete, apply_ite (Except.map _)]
  refine if_congr Iff.rfl ?_ rfl
  simp only [readRbuf_withTx, State.withTx_rlen]
  cases readRbuf s (s.rlen.toNat - 1) with
  | error => rfl
  | ok lo => cases readRbuf s (s.rlen.toNat - 2) <;> rfl

theorem beginFrame_withTx (b : Byte) :
    beginFrame b (State.withTx u s) = (beginFrame b s).map (State.withTx u) := by
  rw [beginFrame, beginFrame, writeRbuf_withTx]
  cases writeRbuf 0 b s <;> rfl

theorem deframe_withTx (b : Byte) : deframe b (State.withTx u s) = (deframe b s).map (State.withTx u) := by
  cases hs : s.rxState <;> simp only [deframe, State.withTx_rxState, hs]
  case start => split <;> rfl
  case awaitId =>
    split
    · rfl
    · split
      · rfl
      · exact beginFrame_withTx u s b
  case awaitData =>
    split
    · rfl
    · rw [bodyAppend_withTx]
      cases bodyAppend b s <;> rfl
  case awaitEsc =>
    split
    · rw [bodyAppend_withTx]
      match bodyAppend startMarker s with
      | .error _ => rfl
      | .ok (true, _) => rfl
      | .ok (false, _) => rfl
    · split
      · exact complete_withTx u s false
      · rfl

theorem getRaw_withTx (n : Nat) :
    getRaw n (State.withTx u s) = (getRaw n s).map (Prod.map id (State.withTx u)) := by
  simp only [getRaw, State.withTx_clen, State.withTx_coff, readRbufBlock_withTx]
  cases readRbufBlock s s.coff.toNat (min n (s.clen.toNat - s.coff.toNat)) <;> rfl

theorem getScalar_withTx (n : Nat) (f : List Byte → Quad) :
    getScalar n f (State.withTx u s) = mapNext (State.withTx u) (getScalar n f s) := by
  rw [getScalar, getScalar, apply_ite (mapNext _)]
  refine if_congr Iff.rfl rfl ?_
  rw [getRaw_withTx]
  cases getRaw n s with
  | error => rfl
  | ok r =>
    simp only [apply_ite (mapNext _)]
    rfl

theorem execGetBytes_withTx (n : Nat) :
    execGetBytes n (State.withTx u s) = mapNext (State.withTx u) (execGetBytes n s) := by
  rw [execGetBytes, execGetBytes, apply_ite (mapNext _), apply_ite (mapNext _)]
  refine if_congr Iff.rfl (if_congr Iff.rfl rfl ?_) rfl
  rw [getRaw_withTx]
  cases getRaw n s <;> rfl

theorem execGetId_withTx : execGetId (State.withTx u s) = mapNext (State.withTx u) (execGetId s) := by
  rw [execGetId, execGetId, apply_ite (mapNext _), apply_ite (mapNext _)]
  refine if_congr Iff.rfl rfl (if_congr Iff.rfl rfl ?_)
  rw [readRbuf_withTx, State.withTx_coff]
  cases readRbuf s s.coff.toNat with
  | error => rfl
  | ok p =>
    simp only [apply_ite (mapNext _)]
    refine if_congr Iff.rfl (if_congr Iff.rfl rfl ?_) rfl
    have hq : readRbuf { State.withTx u s with coff := s.coff + 1 } (s.coff + 1).toNat =
      readRbuf { s with coff := s.coff + 1 } (s.coff + 1).toNat := rfl
    rw [hq]
    cases readRbuf { s with coff := s.coff + 1 } (s.coff + 1).toNat <;> rfl

theorem execTick_withTx : execTick (State.withTx u s) = mapNext (State.withTx u) (execTick s) := by
  have hc : complete true { State.withTx u s with idleCnt := 0 } =
    (complete true { s with idleCnt := 0 }).map (State.withTx u) := complete_withTx u { s with idleCnt := 0 } true
  rw [execTick, execTick, apply_ite (mapNext _), apply_ite (mapNext _)]
  refine if_congr Iff.rfl (if_congr Iff.rfl rfl ?_) rfl
  rw [hc, finish_map, State.withTx_rxState]
  cases s.rxState <;> rfl

theorem execRxByte_withTx (b : Byte) :
    execRxByte b (State.withTx u s) = mapNext (State.withTx u) (execRxByte b s) := by
  rw [execRxByte, execRxByte, apply_ite (mapNext _), ← finish_map, ← deframe_withTx]
  rfl

theorem execReplay_withTx : execReplay (State.withTx u s) = mapNext (State.withTx u) (execReplay s) := by
  rw [execReplay, execReplay, apply_ite (mapNext _), ← finish_map, ← deframe_withTx]
  rfl

/-- An RX-side instruction neither reads nor writes the TX framer (R243). -/
theorem exec_withTx {i : Instr} (hi : rxSide i = true) :
    exec i (State.withTx u s) = mapNext (State.withTx u) (exec i s) := by
  cases i with
  | rxArm | rxEos | auxByte | curInit =>
    simp only [exec, execRxArm, execRxEos, execAuxByte, execCurInit, apply_ite (mapNext _)]
    rfl
  | rxByte b => exact execRxByte_withTx u s b
  | tick => exact execTick_withTx u s
  | replay => exact execReplay_withTx u s
  | getBytes n => exact execGetBytes_withTx u s n
  | getI16 | getU16 | getI32 | getU32 | getI64 | getU64 | getF32 | getF64 => exact getScalar_withTx u s _ _
  | getId => exact execGetId_withTx u s
  | _ => cases hi

end RxSide

section TxSide

variable (u s : State)

/-! The TX side reads and writes nothing that an exchange of the RX, result and cursor state changes. -/

theorem txWrite_withRx (v p : List Byte) (acc : Bool) (w : List Byte) :
    txWrite v p acc w (State.withRx u s) = Prod.map id (State.withRx u) (txWrite v p acc w s) := by
  simp only [txWrite, apply_ite (Prod.map _ _)]
  rfl

theorem txCmd_withRx (v p : List Byte) (acc : Bool) (w : List Byte) :
    txCmd v p acc w (State.withRx u s) = mapNext (State.withRx u) (txCmd v p acc w s) := by
  rw [txCmd, txCmd, txWrite_withRx]
  rfl

theorem execTxAccept_withRx : execTxAccept (State.withRx u s) = mapNext (State.withRx u) (execTxAccept s) := by
  have hdata : txData (State.withRx u s) = txData s := rfl
  rw [execTxAccept, execTxAccept, apply_ite (mapNext _), hdata]
  refine if_congr Iff.rfl ?_ rfl
  cases txData s <;> rfl

/-- A TX-side instruction neither reads nor writes the RX, result and cursor state (R243). -/
theorem exec_withRx {i : Instr} (hi : txSide i = true) :
    exec i (State.withRx u s) = mapNext (State.withRx u) (exec i s) := by
  cases i with
  | txOpen | txFail | txSend =>
    simp only [exec, execTxOpen, execTxFail, execTxSend, apply_ite (mapNext _)]
    rfl
  | txPut8 | txPut16 | txPut32 | txPut64 | txChecksum | txClose | txCommand => exact txCmd_withRx u s _ _ _ _
  | txPutN n v =>
    simp only [exec, execTxPutN, txCmd_withRx, apply_ite (mapNext _)]
    rfl
  | txAccept => exact execTxAccept_withRx u s
  | _ => cases hi

end TxSide

/-- Settles O60, side by side. -/
theorem rxAndTxAreIndependent : Obligations.RxAndTxAreIndependent :=
  fun _ s u => ⟨exec_withTx u s, exec_withRx u s⟩

end Sys2Proof.Machine

/-! ### The control and status commands -/

namespace Sys2Proof.Machine

/-! A word read by a host command is its fields appended, the highest first. Reading a field drops the fields below it
(`extractLsb'_append_eq_of_le`) until it is the lowest one (`extractLsb'_append_eq_right`). These need the
width of the word as the sum of its fields' widths, which a full `simp` would add up. -/

/-- The fields of the cursor word (R262). -/
theorem extractLsb'_cursorWord (s : State) :
    (cursorWord s).extractLsb' 0 16 = s.coff ∧ (cursorWord s).extractLsb' 16 16 = s.clen ∧
    (cursorWord s).extractLsb' 32 16 = s.rlen ∧ (cursorWord s).extractLsb' 48 16 = s.txPtr := by
  simp only [cursorWord, BitVec.extractLsb'_append_eq_of_le, BitVec.extractLsb'_append_eq_right,
    BitVec.extractLsb'_eq_self, Nat.reduceLeDiff, Nat.reduceSub, and_self]

/-- The one-bit fields of the status word (R261), but for `tx_err`, which `getLsbD_statusWord_txErr` gives. -/
theorem getLsbD_statusWord (s : State) :
    (statusWord s).getLsbD 2 = s.armed ∧ (statusWord s).getLsbD 3 = s.ungetV ∧
    (statusWord s).getLsbD 4 = s.resPending ∧ (statusWord s).getLsbD 7 = s.resValid ∧
    (statusWord s).getLsbD 8 = s.resForced ∧ (statusWord s).getLsbD 9 = s.txBusy ∧
    (statusWord s).getLsbD 10 = s.txOvf := by
  simp only [statusWord, BitVec.getLsbD_append]
  simp

/-- The wider fields of the status word, and its reserved bits (R261). -/
theorem extractLsb'_statusWord (s : State) :
    (statusWord s).extractLsb' 0 2 = rxStateCode s.rxState ∧
    (statusWord s).extractLsb' 5 2 = resKindCode s.resKind ∧
    (statusWord s).extractLsb' 12 4 = 0#4 ∧ (statusWord s).extractLsb' 16 16 = s.resLen ∧
    (statusWord s).extractLsb' 32 16 = s.tlen ∧ (statusWord s).extractLsb' 48 16 = s.tsum := by
  simp only [statusWord, BitVec.extractLsb'_append_eq_of_le, BitVec.extractLsb'_append_eq_right,
    BitVec.extractLsb'_eq_self, Nat.reduceLeDiff, Nat.reduceSub, and_self]

/-- Settles O58: the word read is the status word; its two codes are the tables of R261. -/
theorem statusWordFields : Obligations.StatusWordFields := by
  intro s
  obtain ⟨harmed, hunget, hpending, hvalid, hforced, hbusy, hovf⟩ := getLsbD_statusWord s
  obtain ⟨hstate, hkind, hnumbers⟩ := extractLsb'_statusWord s
  exact ⟨statusWord s, rfl, hstate, harmed, hunget, hpending, hkind, hvalid, hforced, hbusy, hovf,
    getLsbD_statusWord_txErr s, hnumbers⟩

/-- Settles O59: the word read is the cursor word. -/
theorem cursorWordFields : Obligations.CursorWordFields :=
  fun s => ⟨cursorWord s, rfl, extractLsb'_cursorWord s⟩

/-- Settles O57: a response appends the status and the two data registers, and NOP does nothing before it. -/
theorem nopChangesNothing : Obligations.NopChangesNothing :=
  fun _ => rfl

end Sys2Proof.Machine

/-! ### Reset, and what is held until RX_ARM -/

namespace Sys2Proof.Machine

/-- Settles O8: RESET gives the state of R300, whatever the state before. -/
theorem resetGivesEveryElementItsResetValue : Obligations.ResetGivesEveryElementItsResetValue := by
  intro s
  refine ⟨State.resetOf s.cfg s.ports, rfl, ?_⟩
  simp [State.resetOf, rxReady, auxReady, txValid]

/-- The payload and the five result elements are the same (R305, R306). -/
structure ResultHeld (s t : State) : Prop where
  rbuf : t.rbuf = s.rbuf
  rlen : t.rlen = s.rlen
  pending : t.resPending = s.resPending
  kind : t.resKind = s.resKind
  len : t.resLen = s.resLen
  valid : t.resValid = s.resValid
  forced : t.resForced = s.resForced

/-- While the block is not armed and no replay is pending no byte reaches the deframer and no get_frame can end, so only
RX_ARM and RESET write the payload or the result. -/
theorem Effect.resultHeld {i : Instr} {s t : State} (he : Effect s i t) (ha : s.armed = false) (hv : s.ungetV = false)
    (harm : i ≠ .rxArm) (hreset : i ≠ .reset) : ResultHeld s t := by
  have hoff : ∀ {p : Prop}, s.armed = true → p := fun e => by simp [ha] at e
  cases he with
  | byte hr | eos hr => exact hoff (rxReady_iff.1 hr).1
  | aux _ hon | count hon | force hon => exact hoff hon
  | replay hpend => simp [hv] at hpend
  | arm => exact absurd rfl harm
  | reset => exact absurd rfl hreset
  | stays | answers | setExt | readReg | curInit | get | build | accept | fail => constructor <;> rfl

/-- A result is pending only between two get_frames (R306). -/
theorem Inv.disarmed_of_resPending {s : State} (h : Inv s) (hp : s.resPending = true) : s.armed = false := by
  by_contra ha
  have hnone := h.armedNoResult (by simpa using ha)
  simp [hp] at hnone

/-- Settles O33: a pending result means that the block is not armed and no replay is pending. -/
theorem resultIsHeldUntilRxArm : Obligations.ResultIsHeldUntilRxArm := by
  intro i s t h hp harm hreset he
  have ha := h.disarmed_of_resPending hp
  obtain ⟨-, hv, -⟩ := h.disarmed ha
  have hheld := (exec_effect he).resultHeld ha hv harm hreset
  exact ⟨hheld.pending.trans hp, hheld.kind, hheld.len, hheld.valid, hheld.forced⟩

/-- Settles O34: the payload is held with the result, and RX_ARM writes 0 to both cursor elements. -/
theorem payloadIsHeldUntilRxArm : Obligations.PayloadIsHeldUntilRxArm := by
  refine ⟨fun i s t ha hv harm hreset he => ?held, fun s t ha he => ?armed⟩
  case held =>
    have hheld := (exec_effect he).resultHeld ha hv harm hreset
    exact ⟨hheld.rbuf, hheld.rlen⟩
  case armed =>
    cases ((rxArmStartsAGetFrame s).2 ha).symm.trans he
    exact ⟨rfl, rfl⟩

end Sys2Proof.Machine

/-! ### The waits that never end -/

namespace Sys2Proof.Machine

/-- Outside a frame a tick counts, or starts the count again at the limit (R236). -/
theorem exec_tick_of_not_inFrame {s : State} (ha : s.armed = true) (hs : s.rxState = .start ∨ s.rxState = .awaitId) :
    exec .tick s = .next { s with idleCnt := if s.idleCnt.toNat + 1 < s.cfg.idleLimit then s.idleCnt + 1 else 0 } := by
  obtain ⟨-, hcount, hexpire⟩ := tickCounts s
  split
  · next hlt => exact hcount ha hlt
  · next hge => exact hexpire ha (Nat.not_lt.1 hge) hs

/-- Outside a frame any number of ticks moves nothing but the idle count, which stays below its limit (R312, R236). -/
theorem execAll_ticks_of_not_inFrame {s : State} (h : Inv s) (ha : s.armed = true)
    (hs : s.rxState = .start ∨ s.rxState = .awaitId) (n : Nat) :
    ∃ c : Half, c.toNat < s.cfg.idleLimit ∧
      execAll (List.replicate n Instr.tick) s = .next { s with idleCnt := c } := by
  induction n with
  | zero => exact ⟨s.idleCnt, h.idleLt, rfl⟩
  | succ n ih =>
    obtain ⟨c, hc, hrun⟩ := ih
    have hstep := exec_tick_of_not_inFrame (s := { s with idleCnt := c }) ha hs
    rw [List.replicate_succ', execAll_append hrun, execAll_cons_of_next hstep]
    refine ⟨_, ?_, rfl⟩
    split
    · next hlt => exact (toNat_succ_of_lt hc h.idleLimit_le).trans_lt hlt
    · exact h.idleLimit_pos

theorem runSteps_succ_of_next {s t : State} (h : step s = .next t) (n : Nat) : runSteps (n + 1) s = runSteps n t := by
  simp only [runSteps, h]

/-- At the end of the schedule, with no replay pending, a run goes on with the schedule's loop (R312). -/
theorem runSteps_of_schedule_ended {s : State} (hs : s.ports.schedule = []) (hv : s.ungetV = false) (n : Nat) :
    runSteps (n + 1) s = runSteps (n + 1) { s with ports := { s.ports with schedule := s.ports.scheduleLoop } } := by
  simp only [runSteps, step, fetch_of_schedule_ended hs hv]

/-- A scheduled tick below the idle limit counts (R236). -/
theorem step_scheduled_tick {s : State} (ha : s.armed = true) (hlt : s.idleCnt.toNat + 1 < s.cfg.idleLimit)
    (ls : List Line) :
    step { s with ports := { s.ports with schedule := .strobe .tick :: ls } } = .next
      { s with idleCnt := s.idleCnt + 1, ports := { s.ports with schedule := ls } } :=
  (step_of_ready rfl rfl rfl rfl).trans ((tickCounts { s with ports := { s.ports with schedule := ls } }).2.1 ha hlt)

/-- A scheduled aux byte is taken from its source, forwarded, and starts the idle count again (R233). -/
theorem step_scheduled_aux {s : State} (ha : s.armed = true) {a : Byte} {q : List Byte}
    (hq : upcoming s.ports.auxQ s.ports.auxLoop = a :: q) (ls : List Line) :
    step { s with ports := { s.ports with schedule := .aux :: ls } } = .next
      { s with
        idleCnt := 0
        ports := { s.ports with schedule := ls, auxQ := q, auxOut := s.ports.auxOut ++ [a] } } := by
  obtain ⟨-, -, htransfer, -⟩ :=
    stepRunsTheTransferredInstruction { s with ports := { s.ports with schedule := .aux :: ls } } ls (.auxByte a)
  exact (htransfer a q rfl hq ha rfl).trans (auxByteIsForwarded _ a ha)

/-- Fewer scheduled ticks than the limit only count (R236). -/
theorem runSteps_ticks_of_lt {s : State} (h : Inv s) (ha : s.armed = true) (hz : s.idleCnt = 0) {n : Nat}
    (hn : n < s.cfg.idleLimit) (ls : List Line) :
    runSteps n { s with ports := { s.ports with schedule := List.replicate n (.strobe .tick) ++ ls } } = .next
      { s with idleCnt := BitVec.ofNat 16 n, ports := { s.ports with schedule := ls } } := by
  induction n generalizing ls with
  | zero =>
    show Host.Outcome.next { s with ports := { s.ports with schedule := ls } } =
      .next { s with idleCnt := 0, ports := { s.ports with schedule := ls } }
    rw [← hz]
  | succ n ih =>
    have hle := h.idleLimit_le
    have hrun := ih (Nat.lt_of_succ_lt hn) (.strobe .tick :: ls)
    have hlt : (BitVec.ofNat 16 n).toNat + 1 < s.cfg.idleLimit := by
      rw [BitVec.toNat_ofNat]
      omega
    have hstep := step_scheduled_tick (s := { s with idleCnt := BitVec.ofNat 16 n }) ha hlt ls
    rw [List.replicate_succ', List.append_assoc, List.singleton_append, runSteps_append hrun,
      runSteps_succ_of_next hstep, BitVec.ofNat_add]
    rfl

/-- The sources go on for ever with `k` ticks and one aux byte a round (R312): fewer ticks than the idle limit, so the
frame in progress is never forced. The fields are the premises of WaitsThatNeverEnd, clause 2. -/
structure KeptByAux (s : State) (k : Nat) (a : Byte) : Prop where
  inv : Inv s
  frame : inFrame s
  idle : s.idleCnt = 0
  ticks : k < s.cfg.idleLimit
  schedule : s.ports.schedule = []
  scheduleLoop : s.ports.scheduleLoop = List.replicate k (.strobe .tick) ++ [.aux]
  auxQ : s.ports.auxQ = []
  auxLoop : s.ports.auxLoop = [a]

/-- What the aux output holds is no part of the wait. -/
theorem KeptByAux.withAuxOut {s : State} {k : Nat} {a : Byte} (h : KeptByAux s k a) (out : List Byte) :
    KeptByAux { s with ports := { s.ports with auxOut := out } } k a :=
  { h with inv := h.inv.withPorts _ }

section KeptByAux
variable {s : State} {k : Nat} {a : Byte} (h : KeptByAux s k a)
include h

theorem KeptByAux.armed : s.armed = true := h.inv.armed_of_inFrame h.frame

/-- A run from the start of a round is a run of the round's lines. -/
theorem KeptByAux.runSteps_succ (n : Nat) :
    runSteps (n + 1) s = runSteps (n + 1) { s with ports := { s.ports with schedule := s.ports.scheduleLoop } } :=
  runSteps_of_schedule_ended h.schedule (h.inv.noReplay_of_inFrame h.frame) n

/-- The first steps of a round are ticks. -/
theorem KeptByAux.runSteps_ticks {j : Nat} (hj : j ≤ k) :
    runSteps j { s with ports := { s.ports with schedule := s.ports.scheduleLoop } } = .next
      { s with
        idleCnt := BitVec.ofNat 16 j
        ports := { s.ports with schedule := List.replicate (k - j) (.strobe .tick) ++ [.aux] } } := by
  have hloop : s.ports.scheduleLoop =
      List.replicate j (.strobe .tick) ++ (List.replicate (k - j) (.strobe .tick) ++ [.aux]) := by
    rw [h.scheduleLoop, ← List.append_assoc, ← List.replicate_add, Nat.add_sub_cancel' hj]
  rw [hloop]
  exact runSteps_ticks_of_lt h.inv h.armed h.idle (hj.trans_lt h.ticks) _

/-- A whole round forwards its aux byte and gives back the state it began in. -/
theorem KeptByAux.runSteps_round :
    runSteps (k + 1) s = .next { s with ports := { s.ports with auxOut := s.ports.auxOut ++ [a] } } := by
  have hticks := h.runSteps_ticks (le_refl k)
  rw [Nat.sub_self, List.replicate_zero, List.nil_append] at hticks
  have haux := step_scheduled_aux (s := { s with idleCnt := BitVec.ofNat 16 k }) h.armed
    (a := a) (q := []) (by simp [h.auxQ, h.auxLoop]) []
  have hend : { s with idleCnt := 0, ports := { s.ports with schedule := [], auxQ := [] } } = s := by
    rw [← h.idle, ← h.schedule, ← h.auxQ]
  rw [h.runSteps_succ, runSteps_append hticks, runSteps_succ_of_next haux]
  exact congrArg (fun u => Host.Outcome.next { u with ports := { u.ports with auxOut := s.ports.auxOut ++ [a] } }) hend

/-- `m` rounds forward `m` aux bytes. -/
theorem KeptByAux.runSteps_rounds (m : Nat) :
    runSteps (m * (k + 1)) s = .next
      { s with ports := { s.ports with auxOut := s.ports.auxOut ++ List.replicate m a } } := by
  induction m with
  | zero => simp [runSteps]
  | succ m ih =>
    rw [Nat.succ_mul, runSteps_append ih, (h.withAuxOut _).runSteps_round, List.replicate_succ', List.append_assoc]

/-- Within a round only the idle count and the ports have moved. -/
theorem KeptByAux.runSteps_within_round {j : Nat} (hj : j < k + 1) :
    ∃ (c : Half) (q : Ports), runSteps j s = .next { s with idleCnt := c, ports := q } := by
  cases j with
  | zero => exact ⟨s.idleCnt, s.ports, rfl⟩
  | succ j => exact ⟨_, _, (h.runSteps_succ j).trans (h.runSteps_ticks (Nat.le_of_lt_succ hj))⟩

/-- The same after any number of steps, which are some rounds and the beginning of the next. -/
theorem KeptByAux.runSteps_anywhere (n : Nat) :
    ∃ (c : Half) (q : Ports), runSteps n s = .next { s with idleCnt := c, ports := q } := by
  have hnext := h.withAuxOut (s.ports.auxOut ++ List.replicate (n / (k + 1)) a)
  obtain ⟨c, q, hrest⟩ := hnext.runSteps_within_round (Nat.mod_lt n k.succ_pos)
  refine ⟨c, q, ?_⟩
  rw [← Nat.div_add_mod' n (k + 1), runSteps_append (h.runSteps_rounds _)]
  exact hrest

end KeptByAux

/-- Only a byte, an end of stream, a tick and RESET can end a get_frame; a replay is noise (R312, R132). -/
theorem Inv.exec_keeps_armed {i : Instr} {s t : State} (h : Inv s) (he : Machine.exec i s = .next t)
    (ha : s.armed = true) (hbyte : ∀ b, i ≠ .rxByte b) (heos : i ≠ .rxEos) (htick : i ≠ .tick)
    (hreset : i ≠ .reset) : t.armed = true := by
  cases exec_effect he with
  | byte => exact absurd rfl (hbyte _)
  | eos => exact absurd rfl heos
  | count | force => exact absurd rfl htick
  | reset => exact absurd rfl hreset
  | replay hv =>
    cases (replayChangesOnlyUngetV s h hv).symm.trans he
    exact ha
  | arm => rfl
  | stays | answers | setExt | readReg | curInit | get | build | aux | accept | fail => exact ha

theorem RxOnly.keeps_send {s t : State} (h : RxOnly s t) (hb : s.txBusy = true) :
    t.txBusy = true ∧ t.txPtr = s.txPtr ∧ t.tlen = s.tlen := ⟨h.txBusy.trans hb, h.txPtr, h.tlen⟩

/-- Only the sink and RESET move a send in progress: the TX commands are held off (R238, R241, R312). -/
theorem Effect.keeps_send {i : Instr} {s t : State} (he : Effect s i t) (hb : s.txBusy = true)
    (haccept : i ≠ .txAccept) (hfail : i ≠ .txFail) (hreset : i ≠ .reset) :
    t.txBusy = true ∧ t.txPtr = s.txPtr ∧ t.tlen = s.tlen := by
  cases he with
  | build _ hidle => simp [hb] at hidle
  | accept => exact absurd rfl haccept
  | fail => exact absurd rfl hfail
  | reset => exact absurd rfl hreset
  | byte _ hd => exact (deframe_rxOnly hd).keeps_send hb
  | replay _ hd => exact (deframe_rxOnly hd).keeps_send hb
  | force _ _ _ hc => exact (complete_rxOnly hc).keeps_send hb
  | stays | answers | arm | setExt | readReg | curInit | get | eos | aux | count => exact ⟨hb, rfl, rfl⟩

/-- Settles O31, wait by wait. -/
theorem waitsThatNeverEnd : Obligations.WaitsThatNeverEnd := by
  refine ⟨fun s n h ha hs => ?ticks, fun s a k h ha hf hz hk hsched hloop hq hauxLoop => ?aux,
    fun i s t h he ha hbyte heos htick hreset => h.exec_keeps_armed he ha hbyte heos htick hreset,
    fun i s t he hb haccept hfail hreset => (exec_effect he).keeps_send hb haccept hfail hreset⟩
  case ticks =>
    obtain ⟨c, hc, hrun⟩ := execAll_ticks_of_not_inFrame h ha hs n
    exact ⟨c.toNat, hc, by rw [hrun, BitVec.ofNat_toNat, BitVec.setWidth_eq]⟩
  case aux =>
    have hkept : KeptByAux s k a := ⟨h, hf, hz, hk, hsched, hloop, hq, hauxLoop⟩
    refine ⟨hkept.runSteps_rounds, fun n => ?_⟩
    obtain ⟨c, q, hrun⟩ := hkept.runSteps_anywhere n
    exact ⟨_, hrun, ha, rfl, h.armedNoResult ha, rfl, rfl⟩

end Sys2Proof.Machine
